-- ==== Sys2Proof/Word.lean ====
section
/-! DEFINITION. The word types of the block: every protocol value is an unsigned fixed-width word
(00_scope.md Notation and R12). -/

namespace Sys2Proof

/-- `u8`: the value of a byte read (00_scope.md Notation). -/
abbrev U8 := BitVec 8

/-- `u16`: every field, counter, index, response word and stream word (R12, D6). Addition on it is
the spec's `+16`, and `==` compares unsigned values. -/
abbrev U16 := BitVec 16

/-- A command word (30_encoding.md R90). -/
abbrev U32 := BitVec 32

end Sys2Proof
end

