-- ==== Sys2Proof/Config.lean ====
section
/-! DEFINITION. What is fixed for one block: the construction-time parameters (00_scope.md R6, R7),
the transport's parameters (R8) and the protocol constants (R9). -/

namespace Sys2Proof

/-- `SYNC_NORMAL` (R9). -/
abbrev syncNormal : U16 := 0xAA55#16

/-- `SYNC_COLOR_CODE` (R9). -/
abbrev syncColorCode : U16 := 0xAA56#16

/-- `OUT_OF_SYNC` (R9). -/
abbrev outOfSyncWord : U16 := 0x55AA#16

/-- The idle word of the scan (R80, R115). -/
abbrev zeroWord : U16 := 0x0000#16

/-- `SENTINEL` (R9, R113, D11). -/
abbrev sentinel : U16 := 0xFFFF#16

/-- The construction-time parameters. They stay fixed for the block's lifetime (R6, R7, R200); no
step of the machine writes them. -/
structure Config where
  /-- `N_SLOTS`, the capacity of the detection buffer (R6). -/
  nSlots : Nat
  /-- `SCAN_LIMIT`, the most words one scan may read (R7). -/
  scanLimit : Nat
  deriving DecidableEq, Repr

/-- The legal range of both parameters, 1 to 65535 (R6, R7). -/
def Config.legal (c : Config) : Bool :=
  decide (1 ≤ c.nSlots) && decide (c.nSlots ≤ 65535) &&
    decide (1 ≤ c.scanLimit) && decide (c.scanLimit ≤ 65535)

/-- The parameters of `State.reset`. DESIGN CHOICE (log 1): the spec leaves both values open (D35, D36);
statements quantify over every configuration. -/
def Config.default : Config := { nSlots := 2, scanLimit := 16 }

/-- `ENDIAN`, a parameter of the transport (R8). -/
inductive Endian where
  /-- I2C and asynchronous serial. -/
  | little
  /-- SPI. -/
  | big
  deriving DecidableEq, Repr

end Sys2Proof
end

