-- ==== Sys2Proof/Syntax.lean ====
section
/-! DEFINITION. The decoded forms: one constructor for each row of spec/opcode_table.json, and the
three formats whose words they are read from (30_encoding.md). -/

namespace Sys2Proof

/-- Which decoder reads a word: the `format` column of the opcode table (30_encoding.md). -/
inductive Format where
  /-- A command word of the host's port (R90 to R92). -/
  | cmd32
  /-- A word read by a scan (R80). -/
  | scan16
  /-- A word in the sync position of a record I > 0 (R85). -/
  | rec16
  deriving DecidableEq, Repr

/-- One decoded word, a constructor for each row of the opcode table. An operand holds the bits that
the row leaves free; a catch-all row holds its whole word. -/
inductive Instr where
  /-- UPDATE (R155). -/
  | update
  /-- GET_DETECTION index (R157). -/
  | getDetection (index : U16)
  /-- GET_ALL (R159). -/
  | getAll
  /-- READ_REG reg (R160). -/
  | readReg (reg : U16)
  /-- A command word of no other row (R92, R162). -/
  | illegal (word : U32)
  /-- Scan word `0x0000` (R115). -/
  | scanIdleZero
  /-- Scan word `0xAA55` (R116). -/
  | scanSyncNormal
  /-- Scan word `0xAA56` (R117). -/
  | scanSyncColorCode
  /-- Scan word `0x55AA` (R118). -/
  | scanOutOfSync
  /-- A scan word of no other row (R119). -/
  | scanOther (word : U16)
  /-- Sync position word `0xAA55` (R131). -/
  | recSyncNormal
  /-- Sync position word `0xAA56` (R131). -/
  | recSyncColorCode
  /-- A sync position word of no other row (R132). -/
  | recSyncBad (word : U16)
  deriving DecidableEq, Repr

/-- The format of a row. -/
def Instr.format : Instr → Format
  | .update => .cmd32
  | .getDetection _ => .cmd32
  | .getAll => .cmd32
  | .readReg _ => .cmd32
  | .illegal _ => .cmd32
  | .scanIdleZero => .scan16
  | .scanSyncNormal => .scan16
  | .scanSyncColorCode => .scan16
  | .scanOutOfSync => .scan16
  | .scanOther _ => .scan16
  | .recSyncNormal => .rec16
  | .recSyncColorCode => .rec16
  | .recSyncBad _ => .rec16

end Sys2Proof
end

