-- ==== Sys2Proof/WellFormed.lean ====
section
/-! DEFINITION. Which decoded forms the encoding tables admit: the word of a catch-all row matches no
other row of its format (30_encoding.md, R80, R85, R92). -/

namespace Sys2Proof

/-- A row's `match` and `mask` columns (30_encoding.md R91 and the opcode table). -/
structure RowBits (w : Nat) where
  pattern : BitVec w
  mask : BitVec w
  deriving DecidableEq, Repr

/-- `(word & mask) == match` (R91). -/
def RowBits.hits {w : Nat} (r : RowBits w) (word : BitVec w) : Bool :=
  word &&& r.mask == r.pattern

/-- The row of UPDATE (R91). -/
def rowUpdate : RowBits 32 := { pattern := 0x01000000#32, mask := 0xFFFFFFFF#32 }
/-- The row of GET_DETECTION (R91). -/
def rowGetDetection : RowBits 32 := { pattern := 0x02000000#32, mask := 0xFFFF0000#32 }
/-- The row of GET_ALL (R91). -/
def rowGetAll : RowBits 32 := { pattern := 0x03000000#32, mask := 0xFFFFFFFF#32 }
/-- The row of READ_REG (R91). -/
def rowReadReg : RowBits 32 := { pattern := 0x04000000#32, mask := 0xFFFF0000#32 }

/-- The rows of R91, in its order. -/
def commandRows : List (RowBits 32) := [rowUpdate, rowGetDetection, rowGetAll, rowReadReg]

/-- The scan words that have a row of their own (R80). -/
def scanClassWords : List U16 := [zeroWord, syncNormal, syncColorCode, outOfSyncWord]

/-- The sync position words that have a row of their own (R85). -/
def recordSyncWords : List U16 := [syncNormal, syncColorCode]

/-- The forms a decoder can answer: a catch-all form holds a word that no other row of its format
takes. -/
def Instr.wellFormed : Instr → Bool
  | .update => true
  | .getDetection _ => true
  | .getAll => true
  | .readReg _ => true
  | .illegal word => commandRows.all fun r => !r.hits word
  | .scanIdleZero => true
  | .scanSyncNormal => true
  | .scanSyncColorCode => true
  | .scanOutOfSync => true
  | .scanOther word => !scanClassWords.contains word
  | .recSyncNormal => true
  | .recSyncColorCode => true
  | .recSyncBad word => !recordSyncWords.contains word

end Sys2Proof
end

