-- ==== Sys2Proof/Decode.lean ====
section
/-! DEFINITION. The three decoders (30_encoding.md R80, R85, R91, R92), total on every word of their
format, and the encoder written from the same tables. -/

namespace Sys2Proof

/-- A word together with the decoder that reads it: the command port gives 32-bit words (R90), the
transport host-order 16-bit words (R63), to the scan or to the record decoder. -/
inductive CodeWord where
  | cmd32 (word : U32)
  | scan16 (word : U16)
  | rec16 (word : U16)
  deriving DecidableEq, Repr

/-- The format of a word. -/
def CodeWord.format : CodeWord → Format
  | .cmd32 _ => .cmd32
  | .scan16 _ => .scan16
  | .rec16 _ => .rec16

/-- OPCODE, bits [31:24] of a command word (R90). -/
def opcodeField (word : U32) : U8 := word.extractLsb' 24 8

/-- RSVD, bits [23:16] of a command word (R90). -/
def rsvdField (word : U32) : U8 := word.extractLsb' 16 8

/-- ARG, bits [15:0] of a command word (R90). -/
def argField (word : U32) : U16 := word.extractLsb' 0 16

/-- The decoder of the command port (R91, R92, R152). -/
def decodeCommand (word : U32) : Instr :=
  if rowUpdate.hits word then .update
  else if rowGetDetection.hits word then .getDetection (argField word)
  else if rowGetAll.hits word then .getAll
  else if rowReadReg.hits word then .readReg (argField word)
  else .illegal word

/-- The class of a scan word by its value (R80). The PREV condition of a class belongs to its meaning
(log 11). -/
def decodeScan (word : U16) : Instr :=
  if word = zeroWord then .scanIdleZero
  else if word = syncNormal then .scanSyncNormal
  else if word = syncColorCode then .scanSyncColorCode
  else if word = outOfSyncWord then .scanOutOfSync
  else .scanOther word

/-- The class of a word in a sync position (R85). -/
def decodeRecord (word : U16) : Instr :=
  if word = syncNormal then .recSyncNormal
  else if word = syncColorCode then .recSyncColorCode
  else .recSyncBad word

/-- Decoding is total: every word of every format has a row (R92, R98). -/
def decode : CodeWord → Instr
  | .cmd32 word => decodeCommand word
  | .scan16 word => decodeScan word
  | .rec16 word => decodeRecord word

/-- Why a sequence of bits is no word of a format. -/
inductive DecodeReject where
  /-- The format has another width: 32 bits for CMD32, 16 for SCAN16 and REC16 (30_encoding.md). -/
  | wrongWidth
  /-- The number does not fit its width. -/
  | valueOutOfWidth
  deriving DecidableEq, Repr

/-- How many bits a word of a format has (30_encoding.md R80, R85, R90). -/
def Format.bits : Format → Nat
  | .cmd32 => 32
  | .scan16 => 16
  | .rec16 => 16

/-- A number taken as a word of a format. -/
def Format.word (f : Format) (value : Nat) : CodeWord :=
  match f with
  | .cmd32 => .cmd32 (BitVec.ofNat 32 value)
  | .scan16 => .scan16 (BitVec.ofNat 16 value)
  | .rec16 => .rec16 (BitVec.ofNat 16 value)

/-- Decoding of any bits, `nbits` of them with the value `value`: rejected by name where no word of the
format has that shape. -/
def decodeBits (f : Format) (nbits value : Nat) : Except DecodeReject Instr :=
  if nbits ≠ f.bits then .error .wrongWidth
  else if 2 ^ nbits ≤ value then .error .valueOutOfWidth
  else .ok (decode (f.word value))

/-- A command word with OPCODE in [31:24], RSVD 0 in [23:16] and ARG in [15:0] (R90). -/
def commandWord (opcode : U8) (arg : U16) : U32 :=
  (opcode.setWidth 32 <<< 24) ||| arg.setWidth 32

/-- The word of an instruction, from the encoding tables (R80, R85, R91). -/
def encode : Instr → CodeWord
  | .update => .cmd32 (commandWord 0x01#8 0x0000#16)
  | .getDetection index => .cmd32 (commandWord 0x02#8 index)
  | .getAll => .cmd32 (commandWord 0x03#8 0x0000#16)
  | .readReg reg => .cmd32 (commandWord 0x04#8 reg)
  | .illegal word => .cmd32 word
  | .scanIdleZero => .scan16 zeroWord
  | .scanSyncNormal => .scan16 syncNormal
  | .scanSyncColorCode => .scan16 syncColorCode
  | .scanOutOfSync => .scan16 outOfSyncWord
  | .scanOther word => .scan16 word
  | .recSyncNormal => .rec16 syncNormal
  | .recSyncColorCode => .rec16 syncColorCode
  | .recSyncBad word => .rec16 word

/-- The instruction the decoder reads from a word of the opcode table. 32 bits are a command word. 16
bits are read as a scan word: the same 16 bits in a sync position are read by `decodeRecord`, and only
PHASE tells the two apart (log 7). Other widths hold no word of this block. -/
def decodeTableWord (nbits w : Nat) : Option Instr :=
  if nbits = 32 then (decodeBits .cmd32 nbits w).toOption
  else (decodeBits .scan16 nbits w).toOption

end Sys2Proof
end

