-- ==== Sys2Proof/Machine/State.lean ====
section
/-! DEFINITION. The state of the system: the block's seven parts (10_state.md R20), its construction
parameters, and the ports and environment it works against (00_scope.md R4). Plain data throughout. -/

namespace Sys2Proof.Machine

/-- A stop of the block. The spec gives the block no fault state (60_exceptions.md R182); the one
constructor guards an access that R14 and R28 give no meaning. -/
inductive Fault where
  /-- Raised by a record's commit at a loop index `I >= N_SLOTS`, a slot that does not exist (R14, R28).
  Safe: the model stops; no well-formed state raises it (log 15). -/
  | slotOutOfRange
  deriving DecidableEq, Repr

/-- Situations to which the spec gives no meaning. -/
inductive Refusal where
  /-- Raised by an arm of `exec` for an instruction that has no meaning yet. Safe. -/
  | notModelled (mnemonic : String)
  /-- Raised by `step` where `N_SLOTS` or `SCAN_LIMIT` is outside 1 to 65535: a configuration the model
  refuses (R6, R7, item S5). Safe (log 2). -/
  | illegalConfiguration
  /-- Raised by a transport read whose token does not fit it, `B(v)` for a word request or `W(v)` for a
  byte request: an ill-formed stream has no meaning (item S6). Safe (log 16). -/
  | tokenDoesNotFit
  /-- Raised by an environment move that its transport cannot make: a token to the reference transport,
  a queue item to the oracle, an item after `ended` (R62). Safe (log 16). -/
  | inputDoesNotFit
  deriving DecidableEq, Repr

/-- What one step of the machine answers. -/
abbrev Result (σ : Type) := Host.Outcome σ Fault Refusal

/-- The block type of a record (R11). -/
inductive BlockType where
  | normal
  | colorCode
  deriving DecidableEq, Repr

/-- A detection record (R10). `cc` is held as the block type: 0 is Normal, 1 is ColorCode. -/
structure Detection where
  cc : BlockType
  signatureNumber : U16
  centerX : U16
  centerY : U16
  width : U16
  height : U16
  angle : U16
  deriving DecidableEq, Repr

/-- One slot of the detection buffer (R14, R28): `empty` is P = 0, whose field bits hold 0 (R32). -/
inductive Slot where
  | empty
  | present (d : Detection)
  deriving DecidableEq, Repr

/-- `PHASE` (R21). Its encoding is not specified (item S8). -/
inductive Phase where
  | idle
  | scanWord
  | scanByte
  | recType
  | recField
  | respond
  deriving DecidableEq, Repr

/-- `K`, the number of a record's body word, 0 to 6 in this order (R21). -/
inductive FieldNo where
  | checksum
  | signatureNumber
  | centerX
  | centerY
  | width
  | height
  | angle
  deriving DecidableEq, Repr

/-- The kinds of a transport response that carries no value (R13). -/
inductive NonData where
  | noData
  | eos
  | fault
  deriving DecidableEq, Repr

/-- The result code of a pass (60_exceptions.md R180); codes 0xB to 0xF do not exist (R98). -/
inductive ResultCode where
  | none
  | frameComplete
  | noFrameIdle
  | noFrameScanLimit
  | noFrame (kind : NonData)
  | abortBadSync
  | abort (kind : NonData)
  deriving DecidableEq, Repr

/-- An event record (R97). -/
inductive Event where
  /-- KIND 0x0001. -/
  | outOfSync
  /-- KIND 0x0002, with the loop index and the signatureNumber word of the rejected record. -/
  | checksumFault (slot : U16) (sig : U16)
  deriving DecidableEq, Repr

/-- The two widths of a transport request (R66). -/
inductive Width where
  | word
  | byte
  deriving DecidableEq, Repr

/-- One response of the oracle transport, in the notation of the test vectors (00_scope.md Notation):
`W(v)`, `B(v)`, or a response without a value. -/
inductive Token where
  | word (v : U16)
  | byte (b : U8)
  | nonData (kind : NonData)
  deriving DecidableEq, Repr

/-- The alignment phase of the stream (R45): the offset, 0 or 1 bytes, between the block's word boundaries and
the sender's framing. It belongs to the environment; no rule of the block reads it. -/
inductive AlignmentPhase where
  /-- Offset 0: the block's next word is a word of the sender. -/
  | aligned
  /-- Offset 1: it begins with the second byte of a word of the sender. -/
  | shifted
  deriving DecidableEq, Repr

/-- An item of the reference transport's queue: a byte or the marker `FLT` (R62). -/
inductive QueueItem where
  | byte (b : U8)
  | flt
  deriving DecidableEq, Repr

/-- The reference transport (R62) with its parameters (R8). -/
structure RefTransport where
  queue : List QueueItem
  ended : Bool
  endian : Endian
  nonblocking : Bool
  deriving DecidableEq, Repr

/-- The transport attached to the block: the oracle of R4, whose next responses are free data, or the
reference transport of R62. -/
inductive Transport where
  | oracle (tokens : List Token)
  | reference (t : RefTransport)
  deriving DecidableEq, Repr

/-- One move of the system: the block's own step or an action of host or transport (R4, log 4). -/
inductive Move where
  /-- The block makes one step. -/
  | block
  /-- The host offers a command word at the command port (R150). -/
  | offer (command : U32)
  /-- The oracle transport has one more response. -/
  | token (t : Token)
  /-- The environment appends an item, a byte or `FLT`, to the reference transport's queue (R62, log 23). -/
  | item (x : QueueItem)
  /-- The reference transport's stream ends (R62, `ended`). -/
  | endStream
  /-- The host starts or stops taking response words (R151). -/
  | hostReady (ready : Bool)
  /-- Reset arrives (R201). -/
  | reset
  deriving DecidableEq, Repr

/-- The whole state. Each field's docstring names its rule. -/
@[ext]
structure State where
  /-- `N_SLOTS` and `SCAN_LIMIT` (R6, R7). -/
  config : Config
  /-- PHASE (R21). -/
  phase : Phase
  /-- K (R21). -/
  k : FieldNo
  /-- CMD_OP (R22). -/
  cmdOp : U8
  /-- CMD_ARG (R22). -/
  cmdArg : U16
  /-- PREV (R23). -/
  prev : U16
  /-- CUR (R23). -/
  cur : U16
  /-- SCNT (R24). -/
  scnt : U16
  /-- I (R25). -/
  i : U16
  /-- BTYPE (R25). -/
  btype : BlockType
  /-- The block type the scan of the running pass returned, `t` of R155 and `t_scan` of R130 (log 8). -/
  tScan : BlockType
  /-- NREC (R25). -/
  nrec : U16
  /-- NACC (R25). -/
  nacc : U16
  /-- F_CK (R26). -/
  fCk : U16
  /-- F_SIG (R26). -/
  fSig : U16
  /-- F_X (R26). -/
  fX : U16
  /-- F_Y (R26). -/
  fY : U16
  /-- F_W (R26). -/
  fW : U16
  /-- F_H (R26). -/
  fH : U16
  /-- F_ANG (R26). -/
  fAng : U16
  /-- The detection buffer, slot 0 first (R28). -/
  slots : List Slot
  /-- STATUS (R34). -/
  status : U16
  /-- LAST_RECORDS (R35). -/
  lastRecords : U16
  /-- LAST_ACCEPTED (R36). -/
  lastAccepted : U16
  /-- LAST_SCAN_WORDS (R37). -/
  lastScanWords : U16
  /-- OOS_COUNT (R38). -/
  oosCount : U16
  /-- CKSUM_FAULT_COUNT (R39). -/
  cksumFaultCount : U16
  /-- LAST_FAULT_SIG (R40). -/
  lastFaultSig : U16
  /-- The event log, oldest first (R44). -/
  events : List Event
  /-- The response in flight: the words still to be taken (R22). -/
  response : List U16
  /-- The transport request that has no response yet (R67). -/
  outstanding : Option Width
  /-- A request that a reset abandoned and whose response is still to be discarded (R201, log 12). -/
  abandoned : Option Width
  /-- The command words offered at the command port, oldest first (R150). -/
  commands : List U32
  /-- The transport (R4, R62). -/
  transport : Transport
  /-- The alignment phase of the transport's stream (R45, log 22). -/
  alignment : AlignmentPhase
  /-- Whether the host takes a response word (R151). -/
  hostReady : Bool
  /-- The response words the host has taken, oldest first: a history (log 4). -/
  delivered : List U16
  /-- The moves still to come, the next one first; when it is empty the block moves (log 4). -/
  schedule : List Move
  deriving DecidableEq, Repr

/-- The reset values of R46 for a block with the parameters `c`, in an environment where nothing has
happened yet. The values of K, the command latch and the working registers are the model's (log 3), those
of the environment too (log 4, log 22). -/
def State.resetWith (c : Config) : State where
  config := c
  phase := .idle
  k := .checksum
  cmdOp := 0#8
  cmdArg := 0#16
  prev := sentinel
  cur := 0#16
  scnt := 0#16
  i := 0#16
  btype := .normal
  tScan := .normal
  nrec := 0#16
  nacc := 0#16
  fCk := 0#16
  fSig := 0#16
  fX := 0#16
  fY := 0#16
  fW := 0#16
  fH := 0#16
  fAng := 0#16
  slots := List.replicate c.nSlots .empty
  status := 0#16
  lastRecords := 0#16
  lastAccepted := 0#16
  lastScanWords := 0#16
  oosCount := 0#16
  cksumFaultCount := 0#16
  lastFaultSig := 0#16
  events := []
  response := []
  outstanding := none
  abandoned := none
  commands := []
  transport := .oracle []
  alignment := .aligned
  hostReady := true
  delivered := []
  schedule := []

/-- The machine right after reset (R46, R200), with the parameters of `Config.default` (log 1). -/
def State.reset : State := State.resetWith Config.default

end Sys2Proof.Machine
end

