-- ==== Sys2Proof/Machine/Flags.lean ====
section
/-! DEFINITION. The words the block builds from fields: result codes (60_exceptions.md R180), STATUS
(10_state.md R34), RESP_HDR (30_encoding.md R93), the slot record's FLAGS (R95) and the event record (R97). -/

namespace Sys2Proof.Machine

/-- One bit from a Bool. -/
def bit (b : Bool) : BitVec 1 := if b then 1#1 else 0#1

/-- The bit that holds a block type: 0 Normal, 1 ColorCode (R10, R25). -/
def BlockType.bit : BlockType → BitVec 1
  | .normal => 0#1
  | .colorCode => 1#1

/-- The 4-bit result codes (R180). -/
def ResultCode.code : ResultCode → BitVec 4
  | .none => 0x0#4
  | .frameComplete => 0x1#4
  | .noFrameIdle => 0x2#4
  | .noFrameScanLimit => 0x3#4
  | .noFrame .noData => 0x4#4
  | .noFrame .eos => 0x5#4
  | .noFrame .fault => 0x6#4
  | .abortBadSync => 0x7#4
  | .abort .noData => 0x8#4
  | .abort .eos => 0x9#4
  | .abort .fault => 0xA#4

/-- STATUS as `finish` writes it: `{0b0000000000, cc, synced, code}` (R156). -/
def statusWord (code : ResultCode) (synced : Bool) (cc : BlockType) : U16 :=
  0#10 ++ (cc.bit ++ (Machine.bit synced ++ code.code))

/-- STATUS[3:0], LAST_RESULT (R34). -/
def statusLastResult (status : U16) : BitVec 4 := status.extractLsb' 0 4

/-- STATUS[4], LAST_SYNCED (R34). -/
def statusLastSynced (status : U16) : Bool := status.getLsbD 4

/-- STATUS[5], LAST_FIRST_CC (R34). -/
def statusLastFirstCc (status : U16) : Bool := status.getLsbD 5

/-- STATUS[15:6], reserved (R34). -/
def statusReserved (status : U16) : BitVec 10 := status.extractLsb' 6 10

/-- RESP_HDR: RESULT in [3:0], ILLEGAL in [4], 0 above (R93). -/
def respHdr (code : ResultCode) (illegal : Bool) : U16 :=
  0#11 ++ (Machine.bit illegal ++ code.code)

/-- FLAGS of a PRESENT slot's record: PRESENT in [0], CC in [1], 0 above (R95). -/
def flagsWord (cc : BlockType) : U16 := 0#14 ++ (cc.bit ++ 1#1)

/-- The seven words of a slot record (R95). -/
def slotRecord : Slot → List U16
  | .empty => List.replicate 7 0x0000#16
  | .present d =>
    [flagsWord d.cc, d.signatureNumber, d.centerX, d.centerY, d.width, d.height, d.angle]

/-- The absent record: seven words of 0 (R95, R158). -/
def absentRecord : List U16 := List.replicate 7 0x0000#16

/-- The three words of an event record: KIND, SLOT, SIG (R97). -/
def Event.words : Event → List U16
  | .outOfSync => [0x0001#16, 0x0000#16, 0x0000#16]
  | .checksumFault slot sig => [0x0002#16, slot, sig]

/-- The presence bit P of a slot (R28). -/
def Slot.p : Slot → BitVec 1
  | .empty => 0#1
  | .present _ => 1#1

/-- The field bits of a slot; those of an EMPTY slot hold 0 (R28, R32). -/
def Slot.fieldBits : Slot → Detection
  | .empty =>
    { cc := .normal, signatureNumber := 0#16, centerX := 0#16, centerY := 0#16, width := 0#16,
      height := 0#16, angle := 0#16 }
  | .present d => d

/-- Block type of a sync word of a record (R81, R84). -/
def syncWordOf : BlockType → U16
  | .normal => syncNormal
  | .colorCode => syncColorCode

end Sys2Proof.Machine
end

