-- ==== Sys2Proof/Machine/Operands.lean ====
section
/-! DEFINITION. What an operand names: the field register of a record's body word (10_state.md R21, R26), a
slot index (20_memory.md R69) and a register number (10_state.md R33). -/

namespace Sys2Proof.Machine

/-- The number of a body word (R21). -/
def FieldNo.number : FieldNo → Nat
  | .checksum => 0
  | .signatureNumber => 1
  | .centerX => 2
  | .centerY => 3
  | .width => 4
  | .height => 5
  | .angle => 6

/-- The body word that follows in a record of the given type: a Normal record ends with `height`, a
ColorCode record with `angle` (R82, R133). -/
def FieldNo.next : FieldNo → BlockType → Option FieldNo
  | .checksum, _ => some .signatureNumber
  | .signatureNumber, _ => some .centerX
  | .centerX, _ => some .centerY
  | .centerY, _ => some .width
  | .width, _ => some .height
  | .height, .normal => none
  | .height, .colorCode => some .angle
  | .angle, _ => none

/-- `F[K] <- v` (R130): F[0] is F_CK, F[1] is F_SIG, and so on to F[6], F_ANG. -/
def State.setField (s : State) (k : FieldNo) (v : U16) : State :=
  match k with
  | .checksum => { s with fCk := v }
  | .signatureNumber => { s with fSig := v }
  | .centerX => { s with fX := v }
  | .centerY => { s with fY := v }
  | .width => { s with fW := v }
  | .height => { s with fH := v }
  | .angle => { s with fAng := v }

/-- The slot an index of the host names: `none` where it is `>= N_SLOTS` (R69, R158). -/
def State.slotAt (s : State) (index : U16) : Option Slot :=
  if index.toNat < s.config.nSlots then s.slots[index.toNat]? else none

/-- The seven words GET_DETECTION sends for an index (R95, R157, R158). -/
def State.detectionRecord (s : State) (index : U16) : List U16 :=
  match s.slotAt index with
  | some slot => slotRecord slot
  | none => absentRecord

/-- CAPACITY always reads N_SLOTS (R41). -/
def State.capacity (s : State) : U16 := BitVec.ofNat 16 s.config.nSlots

/-- REGFILE[reg] (R33, R96): the eight registers, and `none` for an unmapped number (R161). -/
def State.register (s : State) (reg : U16) : Option U16 :=
  match reg.toNat with
  | 0 => some s.status
  | 1 => some s.lastRecords
  | 2 => some s.lastAccepted
  | 3 => some s.lastScanWords
  | 4 => some s.oosCount
  | 5 => some s.cksumFaultCount
  | 6 => some s.lastFaultSig
  | 7 => some s.capacity
  | _ => none

end Sys2Proof.Machine
end

