-- ==== Sys2Proof/Machine/Transport.lean ====
section
/-! DEFINITION. The transport's answers to the block's two requests (00_scope.md R13, 20_memory.md R60 to
R67): the oracle of the token streams and the reference transport of R62. -/

namespace Sys2Proof.Machine

/-- A tagged response (R13): `DATA(v)`, or one of NODATA, EOS and FAULT. -/
inductive Response (α : Type) where
  | data (v : α)
  | nonData (kind : NonData)
  deriving DecidableEq, Repr

/-- What a request meets: a response and the transport after it, no response yet (R67), or a token that
does not fit the request (item S6). -/
inductive Reply (α : Type) where
  | answered (r : Response α) (t : Transport)
  | waiting
  | unfit
  deriving DecidableEq, Repr

/-- `assemble(b0, b1)` (R63): the word in host order of two bytes in stream order. -/
def assemble (e : Endian) (b0 b1 : U8) : U16 :=
  match e with
  | .little => b1 ++ b0
  | .big => b0 ++ b1

/-- `ReadByte()` of the reference transport (R62). -/
def RefTransport.readByte (t : RefTransport) : Reply U8 :=
  match t.queue with
  | .flt :: q => .answered (.nonData .fault) (.reference { t with queue := q })
  | .byte b :: q => .answered (.data b) (.reference { t with queue := q })
  | [] =>
    if t.ended then .answered (.nonData .eos) (.reference t)
    else if t.nonblocking then .answered (.nonData .noData) (.reference t)
    else .waiting

/-- The answer of the reference transport to a word request that finds fewer than two items (R62). -/
def RefTransport.shortWord (t : RefTransport) : Reply U16 :=
  if t.ended then .answered (.nonData .eos) (.reference t)
  else if t.nonblocking then .answered (.nonData .noData) (.reference t)
  else .waiting

/-- `ReadWord()` of the reference transport (R62). -/
def RefTransport.readWord (t : RefTransport) : Reply U16 :=
  match t.queue with
  | .flt :: q => .answered (.nonData .fault) (.reference { t with queue := q })
  | .byte _ :: .flt :: q => .answered (.nonData .fault) (.reference { t with queue := q })
  | .byte b0 :: .byte b1 :: q =>
    .answered (.data (assemble t.endian b0 b1)) (.reference { t with queue := q })
  | [.byte _] => t.shortWord
  | [] => t.shortWord

/-- A word request to the oracle: its next token, which must be `W(v)` or carry no value (item S6). -/
def oracleReadWord (tokens : List Token) : Reply U16 :=
  match tokens with
  | .word v :: ts => .answered (.data v) (.oracle ts)
  | .nonData c :: ts => .answered (.nonData c) (.oracle ts)
  | .byte _ :: _ => .unfit
  | [] => .waiting

/-- A byte request to the oracle: its next token, which must be `B(v)` or carry no value (item S6). -/
def oracleReadByte (tokens : List Token) : Reply U8 :=
  match tokens with
  | .byte b :: ts => .answered (.data b) (.oracle ts)
  | .nonData c :: ts => .answered (.nonData c) (.oracle ts)
  | .word _ :: _ => .unfit
  | [] => .waiting

/-- `ReadWord()` (R13). -/
def Transport.readWord : Transport → Reply U16
  | .oracle tokens => oracleReadWord tokens
  | .reference t => t.readWord

/-- `ReadByte()` (R13). -/
def Transport.readByte : Transport → Reply U8
  | .oracle tokens => oracleReadByte tokens
  | .reference t => t.readByte

/-- The offset in bytes of an alignment phase (R45). -/
def AlignmentPhase.offset : AlignmentPhase → Nat
  | .aligned => 0
  | .shifted => 1

/-- One byte read moves every later word boundary by one byte (R45, R61). -/
def AlignmentPhase.flip : AlignmentPhase → AlignmentPhase
  | .aligned => .shifted
  | .shifted => .aligned

/-- The alignment phase after a request of width `w` has its response, which carries a value or none (R45):
`ReadWord()` leaves it, `ReadByte()` flips it. A byte read without a value consumes no byte (R62) and leaves
it (log 22). -/
def AlignmentPhase.after (a : AlignmentPhase) (w : Width) (data : Bool) : AlignmentPhase :=
  match w with
  | .word => a
  | .byte => if data then a.flip else a

/-- What becomes of the transport when the response to a request is taken and thrown away (R201): the
transport after the response, and whether it carried a value; no response yet; or a token that does not
fit. -/
inductive Discard where
  | done (t : Transport) (data : Bool)
  | waiting
  | unfit
  deriving DecidableEq, Repr

/-- A reply whose value is thrown away. -/
def Reply.discard {α : Type} : Reply α → Discard
  | .answered (.data _) t => .done t true
  | .answered (.nonData _) t => .done t false
  | .waiting => .waiting
  | .unfit => .unfit

/-- A request of the given width whose response is thrown away. -/
def Transport.discard (t : Transport) (w : Width) : Discard :=
  match w with
  | .word => t.readWord.discard
  | .byte => t.readByte.discard

/-- The two stream bytes of a host-order word (R63, R86). -/
def wireBytes (e : Endian) (v : U16) : List U8 :=
  match e with
  | .little => [v.extractLsb' 0 8, v.extractLsb' 8 8]
  | .big => [v.extractLsb' 8 8, v.extractLsb' 0 8]

/-- The transport with one word placed in front of everything it holds. -/
def Transport.pushWord (v : U16) : Transport → Transport
  | .oracle tokens => .oracle (.word v :: tokens)
  | .reference t =>
    .reference { t with queue := (wireBytes t.endian v).map QueueItem.byte ++ t.queue }

end Sys2Proof.Machine
end

