-- ==== Sys2Proof/Machine/Ops.lean ====
section
/-! DEFINITION. The named operations that the meanings share: the command latch, the start and the end of
a pass, the response, the event log, and the block's transport requests. The block takes no exception
(60_exceptions.md R182); its analogue of exception entry is the end of a pass (R184), written once as
`State.finish`, and its analogue of the return is the delivery of the last response word (R151, R185),
`State.deliver`. -/

namespace Sys2Proof.Machine

/-- `CMD_OP <- word[31:24]`, `CMD_ARG <- word[15:0]` on acceptance (R22, R150). -/
def State.latch (s : State) (word : U32) : State :=
  { s with cmdOp := opcodeField word, cmdArg := argField word }

/-- `Respond(w0, ...)` (R16): the words are in flight and PHASE is RESPOND (R21, R151). -/
def State.respond (s : State) (words : List U16) : State :=
  { s with response := words, phase := .respond }

/-- `Emit(ev)` appends one record to the event log (R15, R44). -/
def State.emit (s : State) (ev : Event) : State :=
  { s with events := s.events ++ [ev] }

/-- The start of a pass (R155) and of its scan (R111): the counts are cleared and PREV holds SENTINEL. -/
def State.startPass (s : State) : State :=
  { s with nrec := 0#16, nacc := 0#16, prev := sentinel, scnt := 0#16, phase := .scanWord }

/-- The response to a command that ran a pass (R94, R155, R157, R159): the header with the pass's result,
then for GET_DETECTION the slot record of CMD_ARG, for GET_ALL every slot's record in index order. -/
def State.passResponse (s : State) (code : ResultCode) : List U16 :=
  respHdr code false ::
    (if s.cmdOp = 0x02#8 then s.detectionRecord s.cmdArg
     else if s.cmdOp = 0x03#8 then s.slots.flatMap slotRecord
     else [])

/-- `finish(code, synced, cc)`, the end of every pass (R156, R184): the four end-of-pass registers, the
response of the command, PHASE to RESPOND. Nothing is rolled back. -/
def State.finish (s : State) (code : ResultCode) (synced : Bool) (cc : BlockType) : State :=
  { s with
    status := statusWord code synced cc
    lastRecords := s.nrec
    lastAccepted := s.nacc
    lastScanWords := s.scnt
    response := s.passResponse code
    phase := .respond }

/-- A scan that ends with `NO_FRAME(c)` ends the pass with synced = 0 and cc = 0 (R121, R155). -/
def State.noFrame (s : State) (code : ResultCode) : State := s.finish code false .normal

/-- A record that ends with `ABORT(code)` ends the pass with synced = 1 and the type of the frame start
(R131, R136, R155). -/
def State.abortPass (s : State) (code : ResultCode) : State := s.finish code true s.tScan

/-- A scan word that returned `DATA(v)`: `SCNT <- SCNT + 1`, `CUR <- v` (R112). -/
def State.takeScanWord (s : State) (v : U16) : State :=
  { s with scnt := s.scnt + 1#16, cur := v }

/-- The shift `PREV <- CUR` that ends every scan word which does not end the scan (R119). -/
def State.shift (s : State) : State :=
  { s with prev := s.cur, phase := .scanWord }

/-- PHASE <- REC_FIELD with the first body word next, in a record of the given type (R130, R131). -/
def State.beginBody (s : State) (t : BlockType) : State :=
  { s with btype := t, k := .checksum, phase := .recField }

/-- `SYNCED(t)` (R116, R117): the pass goes on with record 0, whose type is the scan's (R131). -/
def State.synced (s : State) (t : BlockType) : State :=
  ({ s with tScan := t, i := 0#16 } : State).beginBody t

/-- SUM (R134): the six fields, added modulo 65536. -/
def State.sum (s : State) : U16 :=
  s.fSig + s.fX + s.fY + s.fW + s.fH + s.fAng

/-- The Detection of the field registers (R137). -/
def State.detection (s : State) : Detection :=
  { cc := s.btype, signatureNumber := s.fSig, centerX := s.fX, centerY := s.fY, width := s.fW,
    height := s.fH, angle := s.fAng }

/-- The end of the field reads: for a Normal record `F_ANG <- 0` (R133). -/
def State.closeFields (s : State) : State :=
  match s.btype with
  | .normal => { s with fAng := 0#16 }
  | .colorCode => s

/-- Commit (R137): `slot[I] <- PRESENT(d)`, and both counts go up. -/
def State.commit (s : State) : State :=
  { s with
    slots := s.slots.set s.i.toNat (.present s.detection)
    nrec := s.nrec + 1#16
    nacc := s.nacc + 1#16 }

/-- Reject (R138): the slot stays; the fault is counted, recorded and emitted. -/
def State.reject (s : State) : State :=
  ({ s with
    nrec := s.nrec + 1#16
    cksumFaultCount := s.cksumFaultCount + 1#16
    lastFaultSig := s.fSig } : State).emit (.checksumFault s.i s.fSig)

/-- After record I: the next record's sync word, or FRAME_COMPLETE after record N_SLOTS - 1 (R155). -/
def State.nextRecord (s : State) : State :=
  if s.i.toNat + 1 < s.config.nSlots then { s with i := s.i + 1#16, phase := .recType }
  else s.finish .frameComplete true s.tScan

/-- The end of RECORD(I) once its fields are read (R130): accept iff `SUM == F_CK` (R135). A commit to a
slot that does not exist stops the model (R14, log 15). -/
def State.endRecord (s : State) : Result State :=
  let r := s.closeFields
  if r.sum = r.fCk then
    if r.i.toNat < r.config.nSlots then .next r.commit.nextRecord
    else .fault .slotOutOfRange
  else .next r.reject.nextRecord

/-- A body word that returned `DATA(v)`: `F[K] <- v`, then the next body word or the end of the record
(R130, R133). -/
def State.takeField (s : State) (v : U16) : Result State :=
  let r := s.setField s.k v
  match s.k.next s.btype with
  | some k => .next { r with k := k }
  | none => r.endRecord

/-- The response has been taken: the request is no longer outstanding (R67). -/
def State.gotResponse (s : State) (t : Transport) : State :=
  { s with transport := t, outstanding := none }

/-- The stream's alignment phase once a request has its response (R45). -/
def State.realign (s : State) (w : Width) (data : Bool) : State :=
  { s with alignment := s.alignment.after w data }

/-- Issue `ReadWord()` and go on with its response (R13). While there is no response the block holds in its
phase with the request outstanding (R67); it issues none while the transport still owes the response of a
request that a reset abandoned (R201, log 12). -/
def State.request {α : Type} (s : State) (w : Width) (reply : Reply α)
    (go : Response α → State → Result State) : Result State :=
  match s.abandoned with
  | some _ => .next s
  | none =>
    match reply with
    | .answered r t => go r (s.gotResponse t)
    | .waiting => .next { s with outstanding := some w }
    | .unfit => .refused .tokenDoesNotFit

/-- The host takes one response word. With the last one PHASE goes back to IDLE (R151, R185). -/
def State.deliver (s : State) : State :=
  match s.response with
  | [] => { s with phase := .idle }
  | [w] => { s with response := [], delivered := s.delivered ++ [w], phase := .idle }
  | w :: ws => { s with response := ws, delivered := s.delivered ++ [w] }

end Sys2Proof.Machine
end

