-- ==== Sys2Proof/Machine/Commands.lean ====
section
/-! DEFINITION. The meanings of the host's commands (42_controller.md R155 to R162), as they are accepted. The
pass that a command runs goes on in the following steps of the block (R5); `State.finish` gives the
response when the pass ends. -/

namespace Sys2Proof.Machine

/-- The word of an encoded command, as the command port saw it. -/
def commandOf (c : CodeWord) : U32 :=
  match c with
  | .cmd32 w => w
  | .scan16 w => w.setWidth 32
  | .rec16 w => w.setWidth 32

/-- Acceptance of a command that runs a pass (R150, R154, R155). -/
def State.acceptPass (s : State) (i : Instr) : State :=
  (s.latch (commandOf (encode i))).startPass

/-- UPDATE (R155): one pass. -/
def execUpdate (s : State) : Result State := .next (s.acceptPass .update)

/-- GET_DETECTION index (R157): one pass, always before the bounds check, then the record of the slot. -/
def execGetDetection (index : U16) (s : State) : Result State :=
  .next (s.acceptPass (.getDetection index))

/-- GET_ALL (R159): one pass, then the records of all slots. -/
def execGetAll (s : State) : Result State := .next (s.acceptPass .getAll)

/-- READ_REG reg (R160): the header and the register, with no pass and no transport request; an unmapped
number is answered with ILLEGAL = 1 alone (R161). -/
def execReadReg (reg : U16) (s : State) : Result State :=
  let r := s.latch (commandOf (encode (.readReg reg)))
  match s.register reg with
  | some value => .next (r.respond [respHdr .none false, value])
  | none => .next (r.respond [respHdr .none true])

/-- An illegal command word (R162): answered with ILLEGAL = 1 and no other effect. -/
def execIllegal (word : U32) (s : State) : Result State :=
  .next ((s.latch word).respond [respHdr .none true])

end Sys2Proof.Machine
end

