-- ==== Sys2Proof/Machine/Record.lean ====
section
/-! DEFINITION. The meanings of the words in the sync position of a record I > 0 (41_record_decoder.md R131,
R132), and the response to a body word's request (R133, R136). -/

namespace Sys2Proof.Machine

/-- Sync word `0xAA55`: a Normal record, six body words follow (R131). -/
def execRecSyncNormal (s : State) : Result State := .next (s.beginBody .normal)

/-- Sync word `0xAA56`: a ColorCode record, seven body words follow (R131). -/
def execRecSyncColorCode (s : State) : Result State := .next (s.beginBody .colorCode)

/-- Any other word, whatever its value: the pass ends with ABORT_BAD_SYNC (R131, R132). -/
def execRecSyncBad (_word : U16) (s : State) : Result State := .next (s.abortPass .abortBadSync)

/-- The response to the request for body word K (R133, R136). -/
def State.takeBodyWord (r : Response U16) (s : State) : Result State :=
  match r with
  | .data v => s.takeField v
  | .nonData c => .next (s.abortPass (.abort c))

end Sys2Proof.Machine
end

