-- ==== Sys2Proof/Machine/Scan.lean ====
section
/-! DEFINITION. The meanings of the scan words (40_synchronizer.md R110 to R121), each from the moment its
`DATA` response is there: the word is counted and loaded into CUR (R112), then its class acts. A class
whose PREV condition fails acts as SCAN_OTHER (R80, R119). -/

namespace Sys2Proof.Machine

/-- Idle, scan word `0x0000` (R115). -/
def execScanIdleZero (s : State) : Result State :=
  let r := s.takeScanWord zeroWord
  if s.prev = zeroWord then .next (r.noFrame .noFrameIdle) else .next r.shift

/-- Normal frame start, scan word `0xAA55` (R116). -/
def execScanSyncNormal (s : State) : Result State :=
  let r := s.takeScanWord syncNormal
  if s.prev = syncNormal then .next (r.synced .normal) else .next r.shift

/-- ColorCode frame start, scan word `0xAA56` (R117). -/
def execScanSyncColorCode (s : State) : Result State :=
  let r := s.takeScanWord syncColorCode
  if s.prev = syncNormal then .next (r.synced .colorCode) else .next r.shift

/-- Out-of-sync scan word `0x55AA` (R118): counted and emitted, then the recovery byte is next. -/
def execScanOutOfSync (s : State) : Result State :=
  let r := s.takeScanWord outOfSyncWord
  .next (({ r with oosCount := r.oosCount + 1#16, phase := .scanByte } : State).emit .outOfSync)

/-- Any other scan word (R119): the shift. -/
def execScanOther (word : U16) (s : State) : Result State := .next (s.takeScanWord word).shift

/-- The response to the recovery byte request (R118, R120): a byte's value is thrown away, the stream's
alignment phase flips (R45) and the scan shifts; any other response ends the scan. -/
def State.takeRecovery (r : Response U8) (s : State) : Result State :=
  match r with
  | .data _ => .next (s.realign .byte true).shift
  | .nonData c => .next (s.noFrame (.noFrame c))

end Sys2Proof.Machine
end

