-- ==== Sys2Proof/Machine/Dispatch.lean ====
section
/-! DEFINITION. One arm for each row of the opcode table. -/

namespace Sys2Proof.Machine

/-- What an instruction does (30_encoding.md, R152). -/
def exec (i : Instr) (s : State) : Host.Outcome State Fault Refusal :=
  match i with
  | .update => Sys2Proof.Machine.execUpdate s
  | .getDetection index => Sys2Proof.Machine.execGetDetection index s
  | .getAll => Sys2Proof.Machine.execGetAll s
  | .readReg reg => Sys2Proof.Machine.execReadReg reg s
  | .illegal word => Sys2Proof.Machine.execIllegal word s
  | .scanIdleZero => Sys2Proof.Machine.execScanIdleZero s
  | .scanSyncNormal => Sys2Proof.Machine.execScanSyncNormal s
  | .scanSyncColorCode => Sys2Proof.Machine.execScanSyncColorCode s
  | .scanOutOfSync => Sys2Proof.Machine.execScanOutOfSync s
  | .scanOther word => Sys2Proof.Machine.execScanOther word s
  | .recSyncNormal => Sys2Proof.Machine.execRecSyncNormal s
  | .recSyncColorCode => Sys2Proof.Machine.execRecSyncColorCode s
  | .recSyncBad word => Sys2Proof.Machine.execRecSyncBad word s

end Sys2Proof.Machine
end

