-- ==== Sys2Proof/Machine/Block.lean ====
section
/-! DEFINITION. One step of the block, by PHASE (10_state.md R21): accept a command, issue one transport
request and take its response, end a scan at its limit, or deliver a response word (00_scope.md R5). A hold
(60_exceptions.md R182) leaves the block where it stands. -/

namespace Sys2Proof.Machine

/-- PHASE = IDLE (R150): the next offered command word is taken, decoded and run; with no command the block
stays idle. -/
def idleStep (s : State) : Result State :=
  match s.commands with
  | [] => .next s
  | w :: ws => exec (decode (.cmd32 w)) { s with commands := ws }

/-- The response to a scan word's request (R112, R120). -/
def takeScanResponse (r : Response U16) (s : State) : Result State :=
  match r with
  | .data v => exec (decode (.scan16 v)) s
  | .nonData c => .next (s.noFrame (.noFrame c))

/-- PHASE = SCAN_WORD (R112): the limit check comes before the read. -/
def scanWordStep (s : State) : Result State :=
  if s.scnt.toNat = s.config.scanLimit then .next (s.noFrame .noFrameScanLimit)
  else s.request .word s.transport.readWord takeScanResponse

/-- PHASE = SCAN_BYTE (R118): the recovery byte. -/
def scanByteStep (s : State) : Result State :=
  s.request .byte s.transport.readByte State.takeRecovery

/-- The response to the request for a record's sync word (R131, R136). -/
def takeSyncResponse (r : Response U16) (s : State) : Result State :=
  match r with
  | .data v => exec (decode (.rec16 v)) s
  | .nonData c => .next (s.abortPass (.abort c))

/-- PHASE = REC_TYPE (R131). -/
def recTypeStep (s : State) : Result State :=
  s.request .word s.transport.readWord takeSyncResponse

/-- PHASE = REC_FIELD (R133). -/
def recFieldStep (s : State) : Result State :=
  s.request .word s.transport.readWord State.takeBodyWord

/-- PHASE = RESPOND (R151): one word is delivered, unless the host does not take it. -/
def respondStep (s : State) : Result State :=
  if s.hostReady then .next s.deliver else .next s

/-- The block's step. -/
def blockStep (s : State) : Result State :=
  match s.phase with
  | .idle => idleStep s
  | .scanWord => scanWordStep s
  | .scanByte => scanByteStep s
  | .recType => recTypeStep s
  | .recField => recFieldStep s
  | .respond => respondStep s

end Sys2Proof.Machine
end

