-- ==== Sys2Proof/Machine/Environment.lean ====
section
/-! DEFINITION. The moves of host and transport between the block's steps (00_scope.md R4), and reset
(70_reset_and_hazards.md R200, R201). -/

namespace Sys2Proof.Machine

/-- The block's own state at its reset values, with the same parameters (R46, R200); ports and environment
stay as they are (R201, R202, log 13). -/
def State.resetBlock (s : State) : State :=
  { State.resetWith s.config with
    outstanding := s.outstanding
    abandoned := s.abandoned
    commands := s.commands
    transport := s.transport
    alignment := s.alignment
    hostReady := s.hostReady
    delivered := s.delivered
    schedule := s.schedule }

/-- Throw away the response of the abandoned request, if the transport has it now (R201): what it consumed
stays consumed, so a byte flips the alignment phase (R45). -/
def State.dropResponse (s : State) (w : Width) : Result State :=
  match s.transport.discard w with
  | .done t data =>
    .next (({ s with transport := t, abandoned := none } : State).realign w data)
  | .waiting => .next { s with abandoned := some w }
  | .unfit => .refused .tokenDoesNotFit

/-- Discard what the transport owes to an abandoned request, once its response arrives (R201). -/
def State.settleAbandoned (s : State) : Result State :=
  match s.abandoned with
  | none => .next s
  | some w => s.dropResponse w

/-- Reset (R200, R201): a command in progress is abandoned, its undelivered words are gone, and a transport
request without a response becomes an abandoned one. -/
def doReset (s : State) : Result State :=
  match s.outstanding with
  | none => .next s.resetBlock
  | some w => ({ s.resetBlock with outstanding := none } : State).dropResponse w

/-- The transport once a move of the environment has reached it: the oracle has one more response, or the
environment appends an item to the reference transport's queue while `ended` is false, or ends its stream
(R62). That the environment appends the marker `FLT` as it appends a byte is the model's choice (log 23). `none` where the move is not one of that transport (log 16). -/
def Transport.feed (t : Transport) (m : Move) : Option Transport :=
  match t, m with
  | .oracle ts, .token x => some (.oracle (ts ++ [x]))
  | .reference r, .item x =>
    if r.ended then none else some (.reference { r with queue := r.queue ++ [x] })
  | .reference r, .endStream => some (.reference { r with ended := true })
  | _, _ => none

/-- A move that reaches the transport; what it owes to an abandoned request is settled at once. -/
def feedTransport (m : Move) (s : State) : Result State :=
  match s.transport.feed m with
  | some t => ({ s with transport := t } : State).settleAbandoned
  | none => .refused .inputDoesNotFit

/-- One move of the environment; `block` is no move of the environment and changes nothing. -/
def envMove (m : Move) (s : State) : Result State :=
  match m with
  | .block => .next s
  | .offer c => .next { s with commands := s.commands ++ [c] }
  | .token x => feedTransport (.token x) s
  | .item x => feedTransport (.item x) s
  | .endStream => feedTransport .endStream s
  | .hostReady b => .next { s with hostReady := b }
  | .reset => doReset s

/-- The move whose turn it is (log 4): the first of the schedule, and the block where it is empty. -/
def nextMove (s : State) : Move :=
  match s.schedule with
  | [] => .block
  | m :: _ => m

/-- The state with that move taken off the schedule. -/
def State.dropMove (s : State) : State := { s with schedule := s.schedule.tail }

end Sys2Proof.Machine
end

