-- ==== Sys2Proof/Machine/Step.lean ====
section
/-! DEFINITION. One step of the system: the move whose turn it is (log 4), refused where the parameters are
outside their legal range (00_scope.md R6, R7); and how a word of the opcode table is placed for the next step. -/

namespace Sys2Proof.Machine

/-- One step. -/
def step (s : State) : Host.Outcome State Fault Refusal :=
  if s.config.legal then
    match nextMove s with
    | .block => blockStep s.dropMove
    | m => envMove m s.dropMove
  else .refused .illegalConfiguration

/-- `s` with the table word placed where the next step fetches (log 6, log 7): a 32-bit word is the command at
the port of an idle block (R150); a 16-bit word is the next transport response of a scan with no word read
yet (R112). -/
def State.withFetchWord (s : State) (nbits w : Nat) : State :=
  if nbits = 32 then
    { s with schedule := [], phase := .idle, commands := BitVec.ofNat 32 w :: s.commands }
  else
    { s with
      schedule := []
      phase := .scanWord
      scnt := 0#16
      outstanding := none
      abandoned := none
      transport := s.transport.pushWord (BitVec.ofNat 16 w) }

end Sys2Proof.Machine
end

