-- ==== Sys2Proof/Machine/Assembler.lean ====
section
/-! DEFINITION. The host command notation (30_encoding.md R99), one command a line, as text of characters. -/

namespace Sys2Proof.Machine

/-- The eight registers by name (10_state.md R33). -/
inductive RegName where
  | status
  | lastRecords
  | lastAccepted
  | lastScanWords
  | oosCount
  | cksumFaultCount
  | lastFaultSig
  | capacity
  deriving DecidableEq, Repr

/-- A register's number (R33). -/
def RegName.number : RegName → U16
  | .status => 0x0000#16
  | .lastRecords => 0x0001#16
  | .lastAccepted => 0x0002#16
  | .lastScanWords => 0x0003#16
  | .oosCount => 0x0004#16
  | .cksumFaultCount => 0x0005#16
  | .lastFaultSig => 0x0006#16
  | .capacity => 0x0007#16

/-- A register's name as the syntax spells it (R33, R99). -/
def regNameTable : List (List Char × RegName) :=
  [("STATUS".toList, .status), ("LAST_RECORDS".toList, .lastRecords),
    ("LAST_ACCEPTED".toList, .lastAccepted), ("LAST_SCAN_WORDS".toList, .lastScanWords),
    ("OOS_COUNT".toList, .oosCount), ("CKSUM_FAULT_COUNT".toList, .cksumFaultCount),
    ("LAST_FAULT_SIG".toList, .lastFaultSig), ("CAPACITY".toList, .capacity)]

/-- Why a line is no command. An unknown mnemonic is refused (item S3). -/
inductive AsmReject where
  | unknownMnemonic
  | badOperand
  deriving DecidableEq, Repr

/-- The value of a digit in the given base, decimal or hexadecimal. -/
def digitValue (base : Nat) (c : Char) : Option Nat :=
  let v :=
    if '0' ≤ c ∧ c ≤ '9' then some (c.toNat - '0'.toNat)
    else if 'a' ≤ c ∧ c ≤ 'f' then some (c.toNat - 'a'.toNat + 10)
    else if 'A' ≤ c ∧ c ≤ 'F' then some (c.toNat - 'A'.toNat + 10)
    else none
  v.filter (· < base)

/-- The value of a row of digits read after `value`. -/
def digitsValue (base : Nat) (value : Nat) : List Char → Option Nat
  | [] => some value
  | c :: cs => (digitValue base c).bind fun d => digitsValue base (value * base + d) cs

/-- A number, decimal, or hexadecimal with `0x` (R99); it must fit the 16 bits of ARG (R90). -/
def parseNumber (text : List Char) : Option U16 :=
  let value :=
    match text with
    | '0' :: 'x' :: c :: cs => digitsValue 16 0 (c :: cs)
    | c :: cs => digitsValue 10 0 (c :: cs)
    | [] => none
  (value.filter (· < 65536)).map (BitVec.ofNat 16)

/-- A register operand: a name stands for its number (R99). -/
def parseRegister (text : List Char) : Option U16 :=
  match regNameTable.lookup text with
  | some r => some r.number
  | none => parseNumber text

/-- The words of a line, split at blanks; a semicolon starts a comment (log 17). -/
def lineWords (text : List Char) : List (List Char) :=
  ((text.takeWhile (· != ';')).splitOn ' ').filter (!·.isEmpty)

/-- An operand that must parse. -/
def withOperand (operand : Option U16) (make : U16 → Instr) : Except AsmReject Instr :=
  match operand with
  | some v => .ok (make v)
  | none => .error .badOperand

/-- One line of a host program (R99). -/
def assembleLine (text : List Char) : Except AsmReject Instr :=
  match lineWords text with
  | [m] =>
    if m = "UPDATE".toList then .ok .update
    else if m = "GETALL".toList then .ok .getAll
    else .error .unknownMnemonic
  | [m, a] =>
    if m = "GETDET".toList then withOperand (parseNumber a) .getDetection
    else if m = "RDREG".toList then withOperand (parseRegister a) .readReg
    else .error .unknownMnemonic
  | _ => .error .unknownMnemonic

/-- The command word of a line (R99). -/
def assembleWord (text : List Char) : Except AsmReject U32 :=
  (assembleLine text).map fun i => commandOf (encode i)

end Sys2Proof.Machine
end

