-- ==== Sys2Proof/Safety.lean ====
section
/-! DEFINITION. The terms in which claims are made: runs, the invariant that every step keeps, what a host
can see, and the pass as the spec's pseudocode writes it (40_synchronizer.md R110, 41_record_decoder.md R130,
42_controller.md R155), as functions of a list of transport responses. The machine does not use them. -/

namespace Sys2Proof.Machine

/-! ## Runs -/

/-- `n` steps, stopping at the first fault or refusal. -/
def runSteps : Nat → State → Result State
  | 0, s => .next s
  | n + 1, s =>
    match step s with
    | .next t => runSteps n t
    | .fault f => .fault f
    | .refused r => .refused r

/-- The phases of a scan. -/
def State.inScan (s : State) : Bool := s.phase = .scanWord || s.phase = .scanByte

/-- The phases of a record. -/
def State.inRecord (s : State) : Bool := s.phase = .recType || s.phase = .recField

/-- The phases of a pass. -/
def State.inPass (s : State) : Bool := s.inScan || s.inRecord

/-- The commands that run a pass (R154). -/
def runsPass : Instr → Bool
  | .update => true
  | .getDetection _ => true
  | .getAll => true
  | .readReg _ => false
  | .illegal _ => false
  | .scanIdleZero => false
  | .scanSyncNormal => false
  | .scanSyncColorCode => false
  | .scanOutOfSync => false
  | .scanOther _ => false
  | .recSyncNormal => false
  | .recSyncColorCode => false
  | .recSyncBad _ => false

/-- It is the block's turn in a machine whose parameters are legal. -/
abbrev State.blockTurn (s : State) : Prop := s.config.legal = true ∧ nextMove s = .block

/-- `s` runs and `t` is a state of the pass that starts in `s`, the response phase right after the pass
included, reached without a reset: the states from `s` on, each the next one of a state inside the pass. -/
inductive PassReaches (s : State) : State → Prop where
  | start : PassReaches s s
  | step {t u : State} : PassReaches s t → t.inPass = true → nextMove t ≠ .reset →
      step t = .next u → PassReaches s u

/-! ## The invariant -/

/-- A STATUS word of R34: no reserved code, LAST_SYNCED exactly for the results of a pass that found a
frame, LAST_FIRST_CC only with it, the reserved bits 0. -/
abbrev StatusLegal (status : U16) : Prop :=
  statusReserved status = 0#10 ∧
    (statusLastResult status).toNat ≤ 0xA ∧
    (statusLastSynced status = true ↔
      statusLastResult status = 0x1#4 ∨ 0x7 ≤ (statusLastResult status).toNat) ∧
    (statusLastFirstCc status = true → statusLastSynced status = true)

/-- The register file and the buffer (R28, R34 to R37). -/
abbrev State.RegistersLegal (s : State) : Prop :=
  s.slots.length = s.config.nSlots ∧ StatusLegal s.status ∧
    s.lastAccepted ≤ s.lastRecords ∧ s.lastRecords.toNat ≤ s.config.nSlots ∧
    s.lastScanWords.toNat ≤ s.config.scanLimit ∧
    (statusLastSynced s.status = false → s.lastRecords = 0#16) ∧
    (statusLastResult s.status = 0x1#4 → s.lastRecords.toNat = s.config.nSlots)

/-- A running pass: SCNT within the limit (R24, R112), and a latched command that runs a pass (R22, R154). -/
abbrev State.PassLegal (s : State) : Prop :=
  s.inPass = true →
    s.scnt.toNat ≤ s.config.scanLimit ∧
      (s.cmdOp = 0x01#8 ∨ s.cmdOp = 0x02#8 ∨ s.cmdOp = 0x03#8) ∧ s.response = []

/-- A running scan (R110): no record has been read; `0xAA55` in PREV was read by this scan; the recovery byte
belongs to an out-of-sync word. -/
abbrev State.ScanLegal (s : State) : Prop :=
  (s.inScan = true → s.nrec = 0#16 ∧ s.nacc = 0#16) ∧
    (s.phase = .scanWord → s.prev = syncNormal → 1 ≤ s.scnt.toNat) ∧
    (s.phase = .scanByte → s.cur = outOfSyncWord ∧ 1 ≤ s.scnt.toNat)

/-- A running record (R130): I names a slot, I records have been read, the scan read at least two words
(R123), record 0 has the scan's type, and only a ColorCode record has an angle word. -/
abbrev State.RecordLegal (s : State) : Prop :=
  (s.inRecord = true →
    s.i.toNat < s.config.nSlots ∧ s.nrec = s.i ∧ s.nacc ≤ s.nrec ∧ 2 ≤ s.scnt.toNat) ∧
    (s.phase = .recType → 1 ≤ s.i.toNat) ∧
    (s.phase = .recField → s.k = .angle → s.btype = .colorCode) ∧
    (s.phase = .recField → s.i = 0#16 → s.btype = s.tScan)

/-- The ports (R22, R67, R151, R201): words are in flight exactly in RESPOND; an outstanding request is the one
that the phase issues; the transport has no response for a request that a reset abandoned. -/
abbrev State.PortsLegal (s : State) : Prop :=
  (s.phase = .idle → s.response = []) ∧ (s.phase = .respond → s.response ≠ []) ∧
    (s.outstanding = some .byte → s.phase = .scanByte) ∧
    (s.outstanding = some .word →
      (s.phase = .scanWord ∧ s.scnt.toNat ≠ s.config.scanLimit) ∨ s.inRecord = true) ∧
    (∀ w, s.abandoned = some w → s.outstanding = none ∧ s.transport.discard w = .waiting)

/-- The invariant of the machine. -/
structure State.Inv (s : State) : Prop where
  config : s.config.legal = true
  registers : s.RegistersLegal
  pass : s.PassLegal
  scan : s.ScanLegal
  record : s.RecordLegal
  ports : s.PortsLegal

/-! ## What a host can see, and what it cannot -/

/-- The buffer, the registers and the event log: what the host reads by commands and from the event port. -/
structure Visible where
  slots : List Slot
  status : U16
  lastRecords : U16
  lastAccepted : U16
  lastScanWords : U16
  oosCount : U16
  cksumFaultCount : U16
  lastFaultSig : U16
  events : List Event
  deriving DecidableEq, Repr

/-- The visible part of a state. -/
def State.visible (s : State) : Visible :=
  { slots := s.slots, status := s.status, lastRecords := s.lastRecords,
    lastAccepted := s.lastAccepted, lastScanWords := s.lastScanWords, oosCount := s.oosCount,
    cksumFaultCount := s.cksumFaultCount, lastFaultSig := s.lastFaultSig, events := s.events }

/-- The state with the command latch, K and every working register of R23 to R26 at its reset value: all
that is left of a state when those registers are disregarded. -/
def State.forgetWorking (s : State) : State :=
  { s with
    k := .checksum, cmdOp := 0#8, cmdArg := 0#16, prev := sentinel, cur := 0#16, scnt := 0#16, i := 0#16
    btype := .normal, tScan := .normal, nrec := 0#16, nacc := 0#16, fCk := 0#16, fSig := 0#16
    fX := 0#16, fY := 0#16, fW := 0#16, fH := 0#16, fAng := 0#16 }

/-- Two results that are equal when the working registers are disregarded. -/
def SameButWorking : Result State → Result State → Prop
  | .next s, .next t => s.forgetWorking = t.forgetWorking
  | .fault f, .fault g => f = g
  | .refused f, .refused g => f = g
  | _, _ => False

/-! ## The pass as the pseudocode writes it

Functions of the transport's responses in the order the block receives them. `none` means that the responses
run out, so that the block holds (R67), or that one does not fit its request (item S6). -/

/-- The outcome of a scan (R110). -/
inductive ScanOutcome where
  | synced (t : BlockType)
  | noFrame (code : ResultCode)
  deriving DecidableEq, Repr

/-- What a scan leaves: its outcome, SCNT, how many out-of-sync words it met, the responses not taken. -/
structure ScanEnd where
  outcome : ScanOutcome
  scnt : U16
  oos : Nat
  rest : List Token
  deriving DecidableEq, Repr

/-- The loop of `Scan()` (R110) from the given PREV and SCNT. -/
def scanLoop (limit : Nat) (prev scnt : U16) (oos : Nat) (ts : List Token) : Option ScanEnd :=
  if scnt.toNat = limit then some ⟨.noFrame .noFrameScanLimit, scnt, oos, ts⟩
  else
    match ts with
    | [] => none
    | .byte _ :: _ => none
    | .nonData c :: rest => some ⟨.noFrame (.noFrame c), scnt, oos, rest⟩
    | .word cur :: rest =>
      if cur = 0x0000#16 ∧ prev = 0x0000#16 then some ⟨.noFrame .noFrameIdle, scnt + 1#16, oos, rest⟩
      else if prev = 0xAA55#16 ∧ cur = 0xAA55#16 then some ⟨.synced .normal, scnt + 1#16, oos, rest⟩
      else if prev = 0xAA55#16 ∧ cur = 0xAA56#16 then
        some ⟨.synced .colorCode, scnt + 1#16, oos, rest⟩
      else if cur = 0x55AA#16 then
        match rest with
        | .byte _ :: rest' => scanLoop limit cur (scnt + 1#16) (oos + 1) rest'
        | .nonData c :: rest' => some ⟨.noFrame (.noFrame c), scnt + 1#16, oos + 1, rest'⟩
        | _ => none
      else scanLoop limit cur (scnt + 1#16) oos rest

/-- `Scan()` (R110, R111). -/
def scanRun (limit : Nat) (ts : List Token) : Option ScanEnd := scanLoop limit 0xFFFF#16 0#16 0 ts

/-- What reading `n` words gives: all of them, or the response that came instead of one. -/
inductive WordsRead where
  | complete (words : List U16) (rest : List Token)
  | stopped (kind : NonData) (rest : List Token)
  deriving DecidableEq, Repr

/-- `n` word requests, one after the other (R133, R136). -/
def readWords : Nat → List Token → Option WordsRead
  | 0, ts => some (.complete [] ts)
  | n + 1, .word v :: ts =>
    match readWords n ts with
    | some (.complete vs rest) => some (.complete (v :: vs) rest)
    | other => other
  | _ + 1, .nonData c :: ts => some (.stopped c ts)
  | _ + 1, .byte _ :: _ => none
  | _ + 1, [] => none

/-- How many body words a record has (R84, R133). -/
def bodyWords : BlockType → Nat
  | .normal => 6
  | .colorCode => 7

/-- The checksum word and the Detection of a record's body words (R130, R133). -/
def bodyOf : BlockType → List U16 → Option (U16 × Detection)
  | .normal, [ck, sig, x, y, w, h] => some (ck, ⟨.normal, sig, x, y, w, h, 0x0000#16⟩)
  | .colorCode, [ck, sig, x, y, w, h, ang] => some (ck, ⟨.colorCode, sig, x, y, w, h, ang⟩)
  | _, _ => none

/-- SUM of a Detection's fields, as a number (R134). -/
def Detection.sumMod (d : Detection) : Nat :=
  (d.signatureNumber.toNat + d.centerX.toNat + d.centerY.toNat + d.width.toNat + d.height.toNat +
    d.angle.toNat) % 65536

/-- What a pass has done so far: the visible state, NREC and NACC. -/
structure PassSoFar where
  visible : Visible
  nrec : Nat
  nacc : Nat
  deriving DecidableEq, Repr

/-- A completely read record at index `i` (R137, R138). -/
def PassSoFar.record (p : PassSoFar) (i : Nat) (ck : U16) (d : Detection) : PassSoFar :=
  if d.sumMod = ck.toNat then
    { visible := { p.visible with slots := p.visible.slots.set i (.present d) }
      nrec := p.nrec + 1, nacc := p.nacc + 1 }
  else
    { visible :=
        { p.visible with
          cksumFaultCount := p.visible.cksumFaultCount + 1#16
          lastFaultSig := d.signatureNumber
          events := p.visible.events ++ [.checksumFault (BitVec.ofNat 16 i) d.signatureNumber] }
      nrec := p.nrec + 1, nacc := p.nacc }

/-- What the records of a pass leave: the result code, the work done, the responses not taken. -/
structure RecordsEnd where
  code : ResultCode
  done : PassSoFar
  rest : List Token
  deriving DecidableEq, Repr

/-- The body of a record of type `t` at index `i`, and then what `go` does with the responses after it. -/
def recordBody (p : PassSoFar) (i : Nat) (t : BlockType) (ts : List Token)
    (go : PassSoFar → List Token → Option RecordsEnd) : Option RecordsEnd :=
  match readWords (bodyWords t) ts with
  | some (.complete vs rest) =>
    match bodyOf t vs with
    | some (ck, d) => go (p.record i ck d) rest
    | none => none
  | some (.stopped c rest) => some ⟨.abort c, p, rest⟩
  | none => none

/-- `n` records from index `i > 0` on, each with a sync word of its own (R130, R131). -/
def laterRecords : Nat → Nat → PassSoFar → List Token → Option RecordsEnd
  | 0, _, p, ts => some ⟨.frameComplete, p, ts⟩
  | n + 1, i, p, ts =>
    match ts with
    | .word v :: rest =>
      if v = 0xAA55#16 then recordBody p i .normal rest (laterRecords n (i + 1))
      else if v = 0xAA56#16 then recordBody p i .colorCode rest (laterRecords n (i + 1))
      else some ⟨.abortBadSync, p, rest⟩
    | .nonData c :: rest => some ⟨.abort c, p, rest⟩
    | _ => none

/-- The records of a pass (R155, step 2): record 0 has the scan's type and no sync word of its own. -/
def recordsRun (nSlots : Nat) (p : PassSoFar) (t : BlockType) (ts : List Token) : Option RecordsEnd :=
  recordBody p 0 t ts (laterRecords (nSlots - 1) 1)

/-- What a pass leaves: the result code, the visible state, the responses not taken. -/
structure PassEnd where
  code : ResultCode
  visible : Visible
  rest : List Token
  deriving DecidableEq, Repr

/-- `finish(code, synced, cc)` on the visible state (R156). -/
def Visible.finish (v : Visible) (code : ResultCode) (synced : Bool) (cc : BlockType) (nrec nacc : Nat)
    (scnt : U16) : Visible :=
  { v with
    status := statusWord code synced cc
    lastRecords := BitVec.ofNat 16 nrec
    lastAccepted := BitVec.ofNat 16 nacc
    lastScanWords := scnt }

/-- The visible state after a scan's out-of-sync words, each counted and emitted (R118). -/
def Visible.afterScan (v : Visible) (oos : Nat) : Visible :=
  { v with
    oosCount := v.oosCount + BitVec.ofNat 16 oos
    events := v.events ++ List.replicate oos .outOfSync }

/-- `Pass()` (R155). -/
def passRun (c : Config) (v : Visible) (ts : List Token) : Option PassEnd :=
  match scanRun c.scanLimit ts with
  | none => none
  | some e =>
    match e.outcome with
    | .noFrame code => some ⟨code, (v.afterScan e.oos).finish code false .normal 0 0 e.scnt, e.rest⟩
    | .synced t =>
      match recordsRun c.nSlots ⟨v.afterScan e.oos, 0, 0⟩ t e.rest with
      | none => none
      | some r => some ⟨r.code, r.done.visible.finish r.code true t r.done.nrec r.done.nacc e.scnt, r.rest⟩

/-- The record of an index in the slots a pass left (R157). -/
def Visible.recordOf (v : Visible) (index : U16) : List U16 :=
  match v.slots[index.toNat]? with
  | some (.present d) => slotRecord (.present d)
  | _ => absentRecord

/-- The response of a pass-running command (R155, R157, R159); `none` for the instructions that run no
pass. -/
def passResponseOf (i : Instr) (e : PassEnd) : Option (List U16) :=
  match i with
  | .update => some [respHdr e.code false]
  | .getDetection index => some (respHdr e.code false :: e.visible.recordOf index)
  | .getAll => some (respHdr e.code false :: e.visible.slots.flatMap slotRecord)
  | .readReg _ => none
  | .illegal _ => none
  | .scanIdleZero => none
  | .scanSyncNormal => none
  | .scanSyncColorCode => none
  | .scanOutOfSync => none
  | .scanOther _ => none
  | .recSyncNormal => none
  | .recSyncColorCode => none
  | .recSyncBad _ => none

/-! ## The alignment phase -/

/-- What the alignment phase means (R45, R65): the reference transport's queue is what is left of the sender's
words on the wire when the block's word boundary stands at the phase's offset in the first of them. -/
abbrev RefTransport.framed (t : RefTransport) (a : AlignmentPhase) (words : List U16) : Prop :=
  t.queue = ((words.flatMap (wireBytes t.endian)).drop a.offset).map QueueItem.byte

/-- The state's alignment phase is the offset of its reference transport's queue in `words`. -/
def State.framed (s : State) (words : List U16) : Prop :=
  ∃ t, s.transport = .reference t ∧ t.framed s.alignment words

end Sys2Proof.Machine
end

