-- ==== Sys2Proof/Certificates/Slice0/Obligations.lean ====
section
/-! DEFINITION. The statements for the provers, each formalising a rule of the spec or a property of the whole
machine. -/

open Sys2Proof Sys2Proof.Machine

/-! ## Encodings -/

/-- Words written out bit by bit from the encoding tables decode to the rows they stand for (30_encoding.md
R80, R85, R91). -/
def Obligations.TableWordsDecodeToTheirRows : Prop :=
  decode (.cmd32 0b00000001000000000000000000000000#32) = .update ∧
    decode (.cmd32 0b00000010000000000000000000000101#32) = .getDetection 5#16 ∧
    decode (.cmd32 0b00000011000000000000000000000000#32) = .getAll ∧
    decode (.cmd32 0b00000100000000000000000000000111#32) = .readReg 7#16 ∧
    decode (.cmd32 0b00000010000000010000000000000000#32) = .illegal 0x02010000#32 ∧
    decode (.scan16 0b0000000000000000#16) = .scanIdleZero ∧
    decode (.scan16 0b1010101001010101#16) = .scanSyncNormal ∧
    decode (.scan16 0b1010101001010110#16) = .scanSyncColorCode ∧
    decode (.scan16 0b0101010110101010#16) = .scanOutOfSync ∧
    decode (.scan16 0b1010101001010111#16) = .scanOther 0xAA57#16 ∧
    decode (.rec16 0b1010101001010101#16) = .recSyncNormal ∧
    decode (.rec16 0b1010101001010110#16) = .recSyncColorCode ∧
    decode (.rec16 0b0101010110101010#16) = .recSyncBad 0x55AA#16 ∧
    decode (.rec16 0b0000000000000000#16) = .recSyncBad 0x0000#16

/-- Every well-formed instruction of every format, with every operand, is what its own word decodes to. -/
def Obligations.DecodeOfEncodeIsTheInstruction : Prop :=
  ∀ i : Instr, i.wellFormed = true → decode (encode i) = i

/-- Every word of every format is the word of the instruction it decodes to, and that instruction is
well-formed: each word has one meaning. -/
def Obligations.EncodeOfDecodeIsTheWord : Prop :=
  ∀ c : CodeWord, encode (decode c) = c ∧ (decode c).wellFormed = true

/-- R91: a command word is legal iff exactly one row matches, no word matches two, and a matching row gives
its command with ARG as the operand. -/
def Obligations.CommandLegalIffExactlyOneRowMatches : Prop :=
  ∀ word : U32,
    (decodeCommand word ≠ .illegal word ↔ (commandRows.filter fun r => r.hits word).length = 1) ∧
      (commandRows.filter fun r => r.hits word).length ≤ 1 ∧
      (word &&& 0xFFFFFFFF#32 = 0x01000000#32 → decodeCommand word = .update) ∧
      (word &&& 0xFFFF0000#32 = 0x02000000#32 →
        decodeCommand word = .getDetection (word.extractLsb' 0 16)) ∧
      (word &&& 0xFFFFFFFF#32 = 0x03000000#32 → decodeCommand word = .getAll) ∧
      (word &&& 0xFFFF0000#32 = 0x04000000#32 →
        decodeCommand word = .readReg (word.extractLsb' 0 16))

/-- A command word that matches no row is illegal, and which words those are (R92); an illegal command is accepted,
answered with the single word `0x0010` (R162), and has no other effect than the response and the latch. (That an
illegal word is latched too is the model's reading of R22 and R150, log 20.) -/
def Obligations.IllegalCommandWordsAreAnswered : Prop :=
  ∀ word : U32,
    (decodeCommand word = .illegal word ↔ ∀ r ∈ commandRows, r.hits word = false) ∧
    (decodeCommand word = .illegal word ↔
      word.extractLsb' 24 8 = 0x00#8 ∨ 5 ≤ (word.extractLsb' 24 8).toNat ∨
        word.extractLsb' 16 8 ≠ 0x00#8 ∨
        ((word.extractLsb' 24 8 = 0x01#8 ∨ word.extractLsb' 24 8 = 0x03#8) ∧
          word.extractLsb' 0 16 ≠ 0x0000#16)) ∧
      ∀ s : State,
        exec (.illegal word) s =
          .next { s with
            cmdOp := word.extractLsb' 24 8, cmdArg := word.extractLsb' 0 16
            response := [0x0010#16], phase := .respond }

/-! ## A step runs the decoded instruction -/

/-- When it is the block's turn: an idle block takes the first command word offered and runs what it decodes
to; a scan below its limit whose word request is answered with data runs what that word decodes to; so does
a record waiting for its sync word. What step adds around exec: the move leaves the schedule, the command
leaves the port, the response leaves the transport and no request is outstanding. (The schedule, the ports and
`abandoned` are the model's, log 4 and log 12.) -/
def Obligations.StepRunsTheDecodedInstruction : Prop :=
  ∀ s : State, s.blockTurn →
    (∀ w ws, s.phase = .idle → s.commands = w :: ws →
      step s = exec (decode (.cmd32 w)) { s with schedule := s.schedule.tail, commands := ws }) ∧
    (∀ v t, s.phase = .scanWord → s.scnt.toNat ≠ s.config.scanLimit → s.abandoned = none →
      s.transport.readWord = .answered (.data v) t →
      step s = exec (decode (.scan16 v))
        { s with schedule := s.schedule.tail, transport := t, outstanding := none }) ∧
    (∀ v t, s.phase = .recType → s.abandoned = none →
      s.transport.readWord = .answered (.data v) t →
      step s = exec (decode (.rec16 v))
        { s with schedule := s.schedule.tail, transport := t, outstanding := none })

/-! ## Commands -/

/-- Acceptance of UPDATE, GET_DETECTION and GET_ALL: the latch, cleared counts, SENTINEL in PREV, and the scan of
a fresh pass, in every state (R111, R150, R154, R155). -/
def Obligations.PassCommandsStartAFreshPass : Prop :=
  ∀ s : State,
    exec .update s =
        .next { s with
          cmdOp := 0x01#8, cmdArg := 0x0000#16, nrec := 0#16, nacc := 0#16
          prev := 0xFFFF#16, scnt := 0#16, phase := .scanWord } ∧
      (∀ index : U16, exec (.getDetection index) s =
        .next { s with
          cmdOp := 0x02#8, cmdArg := index, nrec := 0#16, nacc := 0#16
          prev := 0xFFFF#16, scnt := 0#16, phase := .scanWord }) ∧
      exec .getAll s =
        .next { s with
          cmdOp := 0x03#8, cmdArg := 0x0000#16, nrec := 0#16, nacc := 0#16
          prev := 0xFFFF#16, scnt := 0#16, phase := .scanWord }

/-- READ_REG of every register number, in every state, with no pass and no transport request: a mapped number
(R160, R33; CAPACITY by R41) and an unmapped one (R161). (That 'changes no state' of R161 leaves out the latch,
PHASE and the response in flight is the model's reading, log 20.) -/
def Obligations.ReadRegAnswersTheRegister : Prop :=
  ∀ (s : State) (reg : U16),
    exec (.readReg reg) s =
      .next { s with
        cmdOp := 0x04#8, cmdArg := reg, phase := .respond
        response :=
          if reg = 0x0000#16 then [0x0000#16, s.status]
          else if reg = 0x0001#16 then [0x0000#16, s.lastRecords]
          else if reg = 0x0002#16 then [0x0000#16, s.lastAccepted]
          else if reg = 0x0003#16 then [0x0000#16, s.lastScanWords]
          else if reg = 0x0004#16 then [0x0000#16, s.oosCount]
          else if reg = 0x0005#16 then [0x0000#16, s.cksumFaultCount]
          else if reg = 0x0006#16 then [0x0000#16, s.lastFaultSig]
          else if reg = 0x0007#16 then [0x0000#16, BitVec.ofNat 16 s.config.nSlots]
          else [0x0010#16] }

/-- The frame of the commands: UPDATE, GET_DETECTION and GET_ALL write the latch and what starts a pass;
READ_REG and an illegal word write the latch, the response and PHASE. Every slot, every register of the
register file, the event log, the transport and everything else is unchanged. -/
def Obligations.CommandFrame : Prop :=
  ∀ (i : Instr) (s t : State), exec i s = .next t →
    (runsPass i = true →
      t = { s with
        cmdOp := t.cmdOp, cmdArg := t.cmdArg, nrec := t.nrec, nacc := t.nacc, prev := t.prev
        scnt := t.scnt, phase := t.phase }) ∧
    (∀ reg, i = .readReg reg →
      t = { s with cmdOp := t.cmdOp, cmdArg := t.cmdArg, response := t.response, phase := t.phase }) ∧
    (∀ word, i = .illegal word →
      t = { s with cmdOp := t.cmdOp, cmdArg := t.cmdArg, response := t.response, phase := t.phase })

/-! ## The scan -/

/-- Scan word (R115) `0x0000` ends the scan and its pass with NO_FRAME_IDLE when PREV is `0x0000`, and is shifted
into PREV otherwise. -/
def Obligations.ScanZeroWordIsIdleOnlyAfterZero : Prop :=
  ∀ s : State,
    (s.prev = 0x0000#16 →
      exec .scanIdleZero s =
        .next { s with
          scnt := s.scnt + 1#16, cur := 0x0000#16, status := 0x0002#16, lastRecords := s.nrec
          lastAccepted := s.nacc, lastScanWords := s.scnt + 1#16
          response := s.passResponse .noFrameIdle, phase := .respond }) ∧
    (s.prev ≠ 0x0000#16 →
      exec .scanIdleZero s =
        .next { s with
          scnt := s.scnt + 1#16, cur := 0x0000#16, prev := 0x0000#16, phase := .scanWord })

/-- R116 and R117: after `0xAA55` in PREV, scan word `0xAA55` starts a Normal frame and `0xAA56` a ColorCode
frame, with record 0's checksum word next (R131); after any other PREV both are shifted into it. -/
def Obligations.FrameStartNeedsSyncNormalInPrev : Prop :=
  ∀ s : State,
    (s.prev = 0xAA55#16 →
      exec .scanSyncNormal s =
          .next { s with
            scnt := s.scnt + 1#16, cur := 0xAA55#16, tScan := .normal, btype := .normal, i := 0#16
            k := .checksum, phase := .recField } ∧
        exec .scanSyncColorCode s =
          .next { s with
            scnt := s.scnt + 1#16, cur := 0xAA56#16, tScan := .colorCode, btype := .colorCode, i := 0#16
            k := .checksum, phase := .recField }) ∧
    (s.prev ≠ 0xAA55#16 →
      exec .scanSyncNormal s =
          .next { s with
            scnt := s.scnt + 1#16, cur := 0xAA55#16, prev := 0xAA55#16, phase := .scanWord } ∧
        exec .scanSyncColorCode s =
          .next { s with
            scnt := s.scnt + 1#16, cur := 0xAA56#16, prev := 0xAA56#16, phase := .scanWord })

/-- Scan word `0x55AA` (R118) is counted modulo 65536 and emitted, and the recovery byte is read next; a byte,
whatever its value, is thrown away and the scan goes on with the shift (R119). The byte read flips the stream's
alignment phase (R45; the field is the environment's, log 22). -/
def Obligations.OutOfSyncWordReadsOneByteAndShifts : Prop :=
  (∀ s : State,
    exec .scanOutOfSync s =
      .next { s with
        scnt := s.scnt + 1#16, cur := 0x55AA#16, oosCount := s.oosCount + 1#16
        events := s.events ++ [.outOfSync], phase := .scanByte }) ∧
  (∀ (s : State) (b : U8) (t : Transport), s.blockTurn → s.phase = .scanByte → s.abandoned = none →
    s.transport.readByte = .answered (.data b) t →
    step s =
      .next { s with
        schedule := s.schedule.tail, transport := t, outstanding := none, prev := s.cur
        alignment := s.alignment.flip, phase := .scanWord })

/-- Any other scan word (R119) is shifted into PREV. -/
def Obligations.OtherScanWordIsShifted : Prop :=
  ∀ (s : State) (v : U16),
    exec (.scanOther v) s =
      .next { s with scnt := s.scnt + 1#16, cur := v, prev := v, phase := .scanWord }

/-- What a scan word does, for every word and every PREV, in the order of the pseudocode of R110. -/
def Obligations.ScanWordActsAsInThePseudocode : Prop :=
  ∀ (s : State) (v : U16),
    exec (decode (.scan16 v)) s =
      .next (
        let r : State := { s with scnt := s.scnt + 1#16, cur := v }
        if v = 0x0000#16 ∧ s.prev = 0x0000#16 then r.finish .noFrameIdle false .normal
        else if s.prev = 0xAA55#16 ∧ v = 0xAA55#16 then
          { r with tScan := .normal, btype := .normal, i := 0#16, k := .checksum, phase := .recField }
        else if s.prev = 0xAA55#16 ∧ v = 0xAA56#16 then
          { r with
            tScan := .colorCode, btype := .colorCode, i := 0#16, k := .checksum, phase := .recField }
        else if v = 0x55AA#16 then
          { r with
            oosCount := s.oosCount + 1#16, events := s.events ++ [.outOfSync], phase := .scanByte }
        else { r with prev := v, phase := .scanWord })

/-- The frame of the scan words: which fields each class may write. No scan word writes a slot, a fault
register or the transport. -/
def Obligations.ScanWordFrame : Prop :=
  ∀ (i : Instr) (s t : State), exec i s = .next t →
    (i = .scanIdleZero →
      t = { s with
        scnt := t.scnt, cur := t.cur, prev := t.prev, phase := t.phase, status := t.status
        lastRecords := t.lastRecords, lastAccepted := t.lastAccepted, lastScanWords := t.lastScanWords
        response := t.response }) ∧
    (i = .scanSyncNormal ∨ i = .scanSyncColorCode →
      t = { s with
        scnt := t.scnt, cur := t.cur, prev := t.prev, phase := t.phase, tScan := t.tScan
        btype := t.btype, i := t.i, k := t.k }) ∧
    (i = .scanOutOfSync →
      t = { s with
        scnt := t.scnt, cur := t.cur, phase := t.phase, oosCount := t.oosCount, events := t.events }) ∧
    (∀ v, i = .scanOther v →
      t = { s with scnt := t.scnt, cur := t.cur, prev := t.prev, phase := t.phase })

/-- R112: the limit is compared before the read; at the limit the scan ends and nothing is read; below it a
word request is issued, and its data is counted and loaded into CUR, whatever the word; the recovery byte is
not counted and is read even after the last word the limit allows. -/
def Obligations.ScanLimitIsCheckedBeforeEachWord : Prop :=
  (∀ s : State, s.blockTurn → s.phase = .scanWord → s.scnt.toNat = s.config.scanLimit →
    step s =
      .next (({ s with schedule := s.schedule.tail } : State).finish .noFrameScanLimit false .normal)) ∧
  (∀ (s : State) (v : U16) (tr : Transport), s.blockTurn → s.phase = .scanWord →
    s.scnt.toNat ≠ s.config.scanLimit → s.abandoned = none →
    s.transport.readWord = .answered (.data v) tr →
    ∃ t, step s = .next t ∧ t.scnt = s.scnt + 1#16 ∧ t.cur = v ∧ t.transport = tr) ∧
  (∀ (s : State) (r : Response U8) (tr : Transport), s.blockTurn → s.phase = .scanByte →
    s.abandoned = none → s.transport.readByte = .answered r tr →
    ∃ t, step s = .next t ∧ t.scnt = s.scnt ∧ t.transport = tr)

/-- A response without a value (R120), to the scan's word request or to its recovery byte request, ends the scan
with the result of its kind and changes neither SCNT nor CUR nor PREV. (That a byte request without a value leaves
the alignment phase is the model's reading of R45, log 22.) -/
def Obligations.ResponseWithoutValueEndsTheScan : Prop :=
  ∀ (s : State) (c : NonData) (tr : Transport), s.blockTurn → s.abandoned = none →
    ((s.phase = .scanWord ∧ s.scnt.toNat ≠ s.config.scanLimit ∧
        s.transport.readWord = .answered (.nonData c) tr) ∨
      (s.phase = .scanByte ∧ s.transport.readByte = .answered (.nonData c) tr)) →
    step s =
      .next { s with
        schedule := s.schedule.tail, transport := tr, outstanding := none
        status := (match c with | .noData => 0x0004#16 | .eos => 0x0005#16 | .fault => 0x0006#16)
        lastRecords := s.nrec, lastAccepted := s.nacc, lastScanWords := s.scnt
        response := s.passResponse (.noFrame c), phase := .respond }

/-- When a step (R123) ends a scan with a frame start, the scan's last two words were `0xAA55` and then `0xAA55`
(Normal) or `0xAA56` (ColorCode), both read as scan words, and the scan read at least two words. -/
def Obligations.FrameStartIsTwoSyncWordsInARow : Prop :=
  ∀ s t : State, s.Inv → s.inScan = true → step s = .next t → t.inRecord = true →
    s.phase = .scanWord ∧ s.prev = 0xAA55#16 ∧
      ((t.cur = 0xAA55#16 ∧ t.tScan = .normal) ∨ (t.cur = 0xAA56#16 ∧ t.tScan = .colorCode)) ∧
      2 ≤ t.scnt.toNat ∧ t.scnt.toNat ≤ t.config.scanLimit

/-! ## Records -/

/-- The word in the sync position of a record (R131, R132); a bad one, whatever its value, ends the pass with
ABORT_BAD_SYNC, keeping every slot. -/
def Obligations.SyncPositionWordGivesTheRecordType : Prop :=
  ∀ s : State,
    exec .recSyncNormal s =
        .next { s with btype := .normal, k := .checksum, phase := .recField } ∧
      exec .recSyncColorCode s =
        .next { s with btype := .colorCode, k := .checksum, phase := .recField } ∧
      (∀ v : U16, exec (.recSyncBad v) s =
        .next { s with
          status := (match s.tScan with | .normal => 0x0017#16 | .colorCode => 0x0037#16)
          lastRecords := s.nrec, lastAccepted := s.nacc, lastScanWords := s.scnt
          response := s.passResponse .abortBadSync, phase := .respond })

/-- The frame of the sync position words: a sync word writes BTYPE, K and PHASE; a bad word writes the
end-of-pass registers, the response and PHASE. No slot, no event, no working count changes. -/
def Obligations.SyncPositionWordFrame : Prop :=
  ∀ (i : Instr) (s t : State), exec i s = .next t →
    (i = .recSyncNormal ∨ i = .recSyncColorCode →
      t = { s with btype := t.btype, k := t.k, phase := t.phase }) ∧
    (∀ v, i = .recSyncBad v →
      t = { s with
        status := t.status, lastRecords := t.lastRecords, lastAccepted := t.lastAccepted
        lastScanWords := t.lastScanWords, response := t.response, phase := t.phase })

/-- A record of index I, given its body words, for the accept and the reject case and for the record that is
not the last of the pass and the one that is (R130, R133 to R135, R137, R138, R155). `d` is its Detection, `ck`
its checksum word, `s` the state in REC_FIELD before the first body word, `t` the state after the last. -/
def RecordOutcome (s t : State) (ck : U16) (d : Detection) (rest : List Token) : Prop :=
  t.transport = .oracle rest ∧ t.nrec = s.nrec + 1#16 ∧
    (d.sumMod = ck.toNat →
      t.slots = s.slots.set s.i.toNat (.present d) ∧ t.nacc = s.nacc + 1#16 ∧
        t.cksumFaultCount = s.cksumFaultCount ∧ t.lastFaultSig = s.lastFaultSig ∧
        t.events = s.events) ∧
    (d.sumMod ≠ ck.toNat →
      t.slots = s.slots ∧ t.nacc = s.nacc ∧ t.cksumFaultCount = s.cksumFaultCount + 1#16 ∧
        t.lastFaultSig = d.signatureNumber ∧
        t.events = s.events ++ [.checksumFault s.i d.signatureNumber]) ∧
    (s.i.toNat + 1 < s.config.nSlots →
      t.phase = .recType ∧ t.i = s.i + 1#16 ∧ t.status = s.status) ∧
    (s.i.toNat + 1 = s.config.nSlots →
      t.phase = .respond ∧ t.status = statusWord .frameComplete true s.tScan ∧
        t.lastRecords = s.nrec + 1#16 ∧ t.lastAccepted = t.nacc ∧ t.lastScanWords = s.scnt)

/-- A Normal record: six body words, in the order of R133, angle 0, then accept or reject. -/
def Obligations.NormalRecordIsDecodedFromSixWords : Prop :=
  ∀ (s : State) (ck sig x y w h : U16) (rest : List Token),
    s.config.legal = true → s.schedule = [] → s.abandoned = none → s.phase = .recField →
    s.k = .checksum → s.btype = .normal → s.i.toNat < s.config.nSlots →
    s.transport =
      .oracle (.word ck :: .word sig :: .word x :: .word y :: .word w :: .word h :: rest) →
    ∃ t, runSteps 6 s = .next t ∧
      RecordOutcome s t ck ⟨.normal, sig, x, y, w, h, 0x0000#16⟩ rest

/-- A ColorCode record: seven body words, in the order of R133, then accept or reject. -/
def Obligations.ColorCodeRecordIsDecodedFromSevenWords : Prop :=
  ∀ (s : State) (ck sig x y w h ang : U16) (rest : List Token),
    s.config.legal = true → s.schedule = [] → s.abandoned = none → s.phase = .recField →
    s.k = .checksum → s.btype = .colorCode → s.i.toNat < s.config.nSlots →
    s.transport =
      .oracle (.word ck :: .word sig :: .word x :: .word y :: .word w :: .word h :: .word ang ::
        rest) →
    ∃ t, runSteps 7 s = .next t ∧
      RecordOutcome s t ck ⟨.colorCode, sig, x, y, w, h, ang⟩ rest

/-- R134: SUM is the sum of the six fields modulo 65536, as unsigned numbers; a Normal record's angle term
is 0. -/
def Obligations.ChecksumIsTheUnsignedSumModulo65536 : Prop :=
  ∀ s : State,
    s.sum.toNat =
        (s.fSig.toNat + s.fX.toNat + s.fY.toNat + s.fW.toNat + s.fH.toNat + s.fAng.toNat) % 65536 ∧
      (s.btype = .normal →
        s.closeFields.sum.toNat =
          (s.fSig.toNat + s.fX.toNat + s.fY.toNat + s.fW.toNat + s.fH.toNat) % 65536)

/-- In an accepted record (R139 (b)), changing exactly one of the summed words or the checksum word always makes
it rejected. -/
def Obligations.OneChangedWordIsRejected : Prop :=
  ∀ (s : State) (k : FieldNo) (v : U16), s.sum = s.fCk → s.setField k v ≠ s →
    (s.setField k v).sum ≠ (s.setField k v).fCk

/-- R136: a response without a value, to the request for a record's sync word or for a body word, ends the pass
with the abort of its kind; the record's words are thrown away, and no slot, NREC, NACC, counter or event
changes. -/
def Obligations.ResponseWithoutValueAbortsTheRecord : Prop :=
  ∀ (s : State) (c : NonData) (tr : Transport), s.blockTurn → s.abandoned = none →
    s.inRecord = true → s.transport.readWord = .answered (.nonData c) tr →
    step s =
      .next { s with
        schedule := s.schedule.tail, transport := tr, outstanding := none
        status :=
          (match c, s.tScan with
            | .noData, .normal => 0x0018#16
            | .eos, .normal => 0x0019#16
            | .fault, .normal => 0x001A#16
            | .noData, .colorCode => 0x0038#16
            | .eos, .colorCode => 0x0039#16
            | .fault, .colorCode => 0x003A#16)
        lastRecords := s.nrec, lastAccepted := s.nacc, lastScanWords := s.scnt
        response := s.passResponse (.abort c), phase := .respond }

/-! ## The end of a pass and the response -/

/-- R156: `finish(code, synced, cc)` writes STATUS field by field, the three counts, and PHASE; a pass that ends
in its scan has NREC = NACC = 0. -/
def Obligations.FinishWritesStatusAndCounts : Prop :=
  ∀ (s : State) (code : ResultCode) (synced : Bool) (cc : BlockType),
    (s.finish code synced cc).status.extractLsb' 0 4 = code.code ∧
      (s.finish code synced cc).status.getLsbD 4 = synced ∧
      (s.finish code synced cc).status.getLsbD 5 = decide (cc = .colorCode) ∧
      (s.finish code synced cc).status.extractLsb' 6 10 = 0#10 ∧
      (s.finish code synced cc).lastRecords = s.nrec ∧
      (s.finish code synced cc).lastAccepted = s.nacc ∧
      (s.finish code synced cc).lastScanWords = s.scnt ∧
      (s.finish code synced cc).phase = .respond ∧
      (s.Inv → s.inScan = true → s.nrec = 0#16 ∧ s.nacc = 0#16)

/-- How many words the response (R94) of each command has, when its pass ends or when it is answered at
once. -/
def Obligations.ResponseLengths : Prop :=
  ∀ (s : State) (code : ResultCode), s.Inv →
    (s.cmdOp = 0x01#8 → (s.passResponse code).length = 1) ∧
      (s.cmdOp = 0x02#8 → (s.passResponse code).length = 8) ∧
      (s.cmdOp = 0x03#8 → (s.passResponse code).length = 1 + 7 * s.config.nSlots) ∧
      (∀ (reg : U16) (t : State), exec (.readReg reg) s = .next t →
        t.response.length = if reg.toNat ≤ 7 then 2 else 1) ∧
      (∀ (word : U32) (t : State), exec (.illegal word) s = .next t → t.response.length = 1)

/-- R95: the words of a slot record, and the absent record for an EMPTY slot and for an index out of range. -/
def Obligations.SlotRecordWords : Prop :=
  (∀ sig x y w h ang : U16,
    slotRecord (.present ⟨.normal, sig, x, y, w, h, ang⟩) = [0x0001#16, sig, x, y, w, h, ang] ∧
      slotRecord (.present ⟨.colorCode, sig, x, y, w, h, ang⟩) =
        [0x0003#16, sig, x, y, w, h, ang]) ∧
    slotRecord .empty = [0#16, 0#16, 0#16, 0#16, 0#16, 0#16, 0#16] ∧
    (∀ (s : State) (index : U16), s.config.nSlots ≤ index.toNat →
      s.detectionRecord index = slotRecord .empty) ∧
    (∀ (s : State) (index : U16) (slot : Slot), index.toNat < s.config.nSlots →
      s.slots[index.toNat]? = some slot → s.detectionRecord index = slotRecord slot)

/-- The three words of an event record (R97). -/
def Obligations.EventRecordWords : Prop :=
  Event.outOfSync.words = [0x0001#16, 0x0000#16, 0x0000#16] ∧
    ∀ slot sig : U16, (Event.checksumFault slot sig).words = [0x0002#16, slot, sig]

/-- Every response (R93, R98) that the block begins has a header with a legal result code, RESULT 0 where
ILLEGAL is set, and reserved bits 0. -/
def Obligations.ResponseHeadersAreLegal : Prop :=
  ∀ s t : State, step s = .next t → s.phase ≠ .respond → t.phase = .respond →
    ∃ hdr rest, t.response = hdr :: rest ∧ (hdr.extractLsb' 0 4).toNat ≤ 0xA ∧
      hdr.extractLsb' 5 11 = 0#11 ∧ (hdr.getLsbD 4 = true → hdr.extractLsb' 0 4 = 0#4 ∧ rest = [])

/-- A host that takes words (R151) gets the response in flight in order, one word a step, and the block is idle
when the last has been taken; a host that takes none holds the block in RESPOND. (That a hold is a step which
changes nothing is the model's choice, log 5.) -/
def Obligations.ResponseIsDeliveredInOrder : Prop :=
  (∀ s : State, s.config.legal = true → s.schedule = [] → s.phase = .respond → s.response ≠ [] →
    s.hostReady = true →
    runSteps s.response.length s =
      .next { s with response := [], delivered := s.delivered ++ s.response, phase := .idle }) ∧
  (∀ s : State, s.blockTurn → s.phase = .respond → s.hostReady = false →
    step s = .next { s with schedule := s.schedule.tail })

/-! ## Holds, ports, reset -/

/-- While a transport request has no response the block stays in its phase, the request outstanding (R67); nothing
else changes, for any number of steps. (That a hold is a step that changes nothing is the model's choice,
log 5.) -/
def Obligations.UnansweredRequestHoldsTheBlock : Prop :=
  ∀ (s : State) (w : Width), s.config.legal = true → s.schedule = [] → s.abandoned = none →
    ((w = .word ∧ s.phase = .scanWord ∧ s.scnt.toNat ≠ s.config.scanLimit ∧
        s.transport.readWord = .waiting) ∨
      (w = .word ∧ s.inRecord = true ∧ s.transport.readWord = .waiting) ∨
      (w = .byte ∧ s.phase = .scanByte ∧ s.transport.readByte = .waiting)) →
    ∀ n, runSteps (n + 1) s = .next { s with outstanding := some w }

/-- From a state of the invariant, a step of the block that leaves PHASE, the transport, the response and
the command port as they are is one of the holds of R182 (no command, a word the host does not take, the phase's
transport request without a response), or a pass that waits because the transport still owes the response of a
request that a reset abandoned. (Holds as steps are the model's choice, log 5; the last wait is the model's too,
log 12.) -/
def Obligations.OnlyHoldsStopTheBlock : Prop :=
  ∀ s t : State, s.Inv → s.blockTurn → step s = .next t →
    t.phase = s.phase → t.transport = s.transport → t.response = s.response →
    t.commands = s.commands →
    (s.phase = .idle ∧ s.commands = []) ∨ (s.phase = .respond ∧ s.hostReady = false) ∨
      (s.inPass = true ∧
        (s.abandoned ≠ none ∨ (s.phase ≠ .scanByte ∧ s.transport.readWord = .waiting) ∨
          (s.phase = .scanByte ∧ s.transport.readByte = .waiting)))

/-- The port is ready in IDLE only (R150): a step of the block in any other phase takes no command, and one
offered by the host waits. (That the port holds several offered commands, in the order of their offers, is the
model's choice, log 4.) -/
def Obligations.CommandsWaitUntilIdle : Prop :=
  ∀ s t : State, step s = .next t →
    (nextMove s = .block → s.phase ≠ .idle → t.commands = s.commands) ∧
      (∀ c, nextMove s = .offer c → t.commands = s.commands ++ [c] ∧ t.phase = s.phase)

/-- R200: reset, at any time, puts the block's state at the reset values the spec gives (R46), and leaves the
parameters as they are. -/
def Obligations.ResetPutsTheBlockAtItsResetValues : Prop :=
  ∀ s t : State, nextMove s = .reset → step s = .next t →
    t.phase = .idle ∧ t.slots = List.replicate s.config.nSlots .empty ∧ t.status = 0#16 ∧
      t.lastRecords = 0#16 ∧ t.lastAccepted = 0#16 ∧ t.lastScanWords = 0#16 ∧ t.oosCount = 0#16 ∧
      t.cksumFaultCount = 0#16 ∧ t.lastFaultSig = 0#16 ∧
      t.capacity = BitVec.ofNat 16 s.config.nSlots ∧ t.events = [] ∧ t.response = [] ∧
      t.config = s.config

/-- Reset and the outstanding request (R201). Without one, reset leaves the transport as it is; a request
without a response becomes an abandoned one; a response that is there already is consumed and thrown away. The
offered commands and the words already delivered stay, and so does the alignment phase (R202) unless a byte was
consumed (R45, log 22). (That a request is remembered as abandoned, and what
becomes of the ports, is the model's choice, log 12 and log 13.) -/
def Obligations.ResetAbandonsTheOutstandingRequest : Prop :=
  ∀ s : State, s.config.legal = true → nextMove s = .reset →
    (∀ t, step s = .next t →
      t.outstanding = none ∧ t.commands = s.commands ∧ t.delivered = s.delivered) ∧
    (s.outstanding = none →
      ∃ t, step s = .next t ∧ t.transport = s.transport ∧ t.abandoned = s.abandoned ∧
        t.alignment = s.alignment) ∧
    (∀ w, s.outstanding = some w → s.transport.discard w = .waiting →
      ∃ t, step s = .next t ∧ t.transport = s.transport ∧ t.abandoned = some w ∧
        t.alignment = s.alignment) ∧
    (∀ w tr data, s.outstanding = some w → s.transport.discard w = .done tr data →
      ∃ t, step s = .next t ∧ t.transport = tr ∧ t.abandoned = none ∧
        t.alignment = s.alignment.after w data)

/-- What the transport answers to an abandoned request, when it arrives, is consumed and thrown away (R201): the
block's state is untouched, on every transport and for every move that reaches it; until then the request stays
abandoned. On the oracle the arriving token is that response; a byte flips the stream's alignment phase (R45).
(`abandoned` is the model's, log 12; that a byte request without a value leaves the alignment phase is the model's
reading of R45, log 22.) -/
def Obligations.LateResponseOfAnAbandonedRequestIsDiscarded : Prop :=
  ∀ s : State, s.config.legal = true →
    (∀ tr tr' w data, s.transport.feed (nextMove s) = some tr → s.abandoned = some w →
      tr.discard w = .done tr' data →
      step s = .next { s with
        schedule := s.schedule.tail, transport := tr', abandoned := none
        alignment := s.alignment.after w data }) ∧
    (∀ tr w, s.transport.feed (nextMove s) = some tr → s.abandoned = some w →
      tr.discard w = .waiting →
      step s = .next { s with schedule := s.schedule.tail, transport := tr }) ∧
    (s.transport = .oracle [] →
      (∀ v, nextMove s = .token (.word v) → s.abandoned = some .word →
        step s = .next { s with schedule := s.schedule.tail, abandoned := none }) ∧
      (∀ b, nextMove s = .token (.byte b) → s.abandoned = some .byte →
        step s = .next { s with
          schedule := s.schedule.tail, abandoned := none, alignment := s.alignment.flip }) ∧
      (∀ c w, nextMove s = .token (.nonData c) → s.abandoned = some w →
        step s = .next { s with schedule := s.schedule.tail, abandoned := none }))

/-! ## The whole machine -/

/-- The invariant holds after reset, for every legal configuration. -/
def Obligations.InvariantHoldsAtReset : Prop :=
  State.reset.Inv ∧ ∀ c : Config, c.legal = true → (State.resetWith c).Inv

/-- Every step, of the block or of its environment, keeps the invariant. -/
def Obligations.EveryStepKeepsTheInvariant : Prop :=
  ∀ s t : State, s.Inv → step s = .next t → t.Inv

/-- No step from a state of the invariant faults (R182), and a step of the block is refused exactly where the phase
issues a request (a byte request in SCAN_BYTE, a word request below the limit in SCAN_WORD and in a record) that
the token at the front of the stream does not fit (item S6, log 16). (That no request is issued while the response
of an abandoned one is owed is the model's choice, log 12.) -/
def Obligations.NoStepFaults : Prop :=
  ∀ s : State, s.Inv →
    (∀ f, step s ≠ .fault f) ∧
      (nextMove s = .block → ∀ r, (step s = .refused r ↔
        r = .tokenDoesNotFit ∧ s.abandoned = none ∧
          ((s.phase = .scanByte ∧ s.transport.readByte = .unfit) ∨
            ((s.phase = .scanWord ∧ s.scnt.toNat ≠ s.config.scanLimit ∨ s.inRecord = true) ∧
              s.transport.readWord = .unfit))))

/-- Every instruction runs: exec answers a next state for every instruction in every state. -/
def Obligations.EveryInstructionCompletes : Prop :=
  ∀ (i : Instr) (s : State), ∃ t, exec i s = .next t

/-- R29: apart from reset, a step changes the buffer only as the commit of the record decoded at loop
index I, whose fields sum to its checksum word, and it changes slot I alone. -/
def Obligations.OnlyAnAcceptedRecordWritesItsSlot : Prop :=
  ∀ s t : State, step s = .next t → nextMove s ≠ .reset → t.slots ≠ s.slots →
    s.phase = .recField ∧ ∃ d : Detection, t.slots = s.slots.set s.i.toNat (.present d) ∧
      d.sumMod = t.fCk.toNat ∧ t.nacc = s.nacc + 1#16 ∧
      d = ⟨s.btype, t.fSig, t.fX, t.fY, t.fW, t.fH, t.fAng⟩

/-- A PRESENT slot stays PRESENT until a reset (R31). -/
def Obligations.PresentSlotsStayPresent : Prop :=
  ∀ (s t : State) (j : Nat) (d : Detection), step s = .next t → nextMove s ≠ .reset →
    s.slots[j]? = some (.present d) → ∃ d', t.slots[j]? = some (.present d')

/-- No step, reset included, changes the construction-time parameters (R6, R7, R200). -/
def Obligations.ParametersNeverChange : Prop :=
  ∀ s t : State, step s = .next t → t.config = s.config

/-- Apart from reset (R44, R71), the event log only grows at its end, by at most one record a step, and only
inside a pass, so before the first word of the command's response. -/
def Obligations.EventLogGrowsOnlyInsideAPass : Prop :=
  ∀ s t : State, step s = .next t → nextMove s ≠ .reset →
    ∃ evs, t.events = s.events ++ evs ∧ evs.length ≤ 1 ∧ (evs ≠ [] → s.inPass = true)

/-- Apart from reset (R33 to R40), STATUS, LAST_RECORDS, LAST_ACCEPTED and LAST_SCAN_WORDS change only in the step
that ends a pass, OOS_COUNT only by one at an out-of-sync word, CKSUM_FAULT_COUNT only by one and with
LAST_FAULT_SIG at a checksum fault. -/
def Obligations.RegistersChangeOnlyByTheirRules : Prop :=
  ∀ s t : State, step s = .next t → nextMove s ≠ .reset →
    ((t.status = s.status ∧ t.lastRecords = s.lastRecords ∧ t.lastAccepted = s.lastAccepted ∧
        t.lastScanWords = s.lastScanWords) ∨
      (s.inPass = true ∧ t.phase = .respond ∧ t.lastRecords = t.nrec ∧ t.lastAccepted = t.nacc ∧
        t.lastScanWords = t.scnt)) ∧
    (t.oosCount = s.oosCount ∨
      (s.phase = .scanWord ∧ t.cur = 0x55AA#16 ∧ t.oosCount = s.oosCount + 1#16 ∧
        t.events = s.events ++ [.outOfSync])) ∧
    ((t.cksumFaultCount = s.cksumFaultCount ∧ t.lastFaultSig = s.lastFaultSig) ∨
      (s.phase = .recField ∧ t.cksumFaultCount = s.cksumFaultCount + 1#16 ∧
        t.lastFaultSig = t.fSig ∧ t.events = s.events ++ [.checksumFault s.i t.fSig]))

/-- The pass of a command runs as the pseudocode of R110, R130 and R155 writes it, on every stream that answers all
its requests: the same result, slots, registers, events, response and stream left over. -/
def Obligations.PassRunsAsThePseudocode : Prop :=
  ∀ (s u : State) (i : Instr) (ts : List Token) (e : PassEnd) (words : List U16),
    s.Inv → s.phase = .idle → s.schedule = [] → s.abandoned = none → s.transport = .oracle ts →
    exec i s = .next u → passRun s.config s.visible ts = some e →
    passResponseOf i e = some words →
    ∃ n t, runSteps n u = .next t ∧ t.phase = .respond ∧ t.visible = e.visible ∧
      t.transport = .oracle e.rest ∧ t.response = words ∧ t.commands = s.commands ∧
      t.delivered = s.delivered

/-- UPDATE, GET_DETECTION and GET_ALL complete: from an idle block to an idle block, with the pass of the
pseudocode done and its response delivered, on every stream that answers all its requests (R153, R155, R157,
R159). -/
def Obligations.PassCommandsCompleteWithTheirResponse : Prop :=
  ∀ (s : State) (word : U32) (more : List U32) (ts : List Token) (e : PassEnd) (words : List U16),
    s.Inv → s.phase = .idle → s.schedule = [] → s.abandoned = none → s.hostReady = true →
    s.commands = word :: more → s.transport = .oracle ts →
    passRun s.config s.visible ts = some e → passResponseOf (decodeCommand word) e = some words →
    ∃ n t, runSteps n s = .next t ∧ t.phase = .idle ∧ t.visible = e.visible ∧
      t.transport = .oracle e.rest ∧ t.commands = more ∧ t.delivered = s.delivered ++ words

/-- A pass-running command (R163) whose first scan word gets NODATA leaves the slots, the counters and the event
log as they are, answers with result 0x4, and rewrites the four end-of-pass registers. -/
def Obligations.PassWithoutDataKeepsSlotsCountersAndEvents : Prop :=
  ∀ (s : State) (word : U32) (more : List U32) (ts : List Token), s.config.legal = true →
    s.phase = .idle → s.schedule = [] → s.abandoned = none → s.commands = word :: more →
    runsPass (decodeCommand word) = true → s.transport = .oracle (.nonData .noData :: ts) →
    ∃ t rest, runSteps 2 s = .next t ∧ t.phase = .respond ∧ t.response = 0x0004#16 :: rest ∧
      t.slots = s.slots ∧ t.oosCount = s.oosCount ∧ t.cksumFaultCount = s.cksumFaultCount ∧
      t.lastFaultSig = s.lastFaultSig ∧ t.events = s.events ∧ t.status = 0x0004#16 ∧
      t.lastRecords = 0#16 ∧ t.lastAccepted = 0#16 ∧ t.lastScanWords = 0#16 ∧
      t.transport = .oracle ts

/-- No run from an idle block (R27) reads K, the command latch or a working register before it has written it:
two states that differ in nothing else have the same run, those registers aside. -/
def Obligations.WorkingRegistersAreWrittenBeforeRead : Prop :=
  ∀ (s t : State) (n : Nat), s.phase = .idle → s.forgetWorking = t.forgetWorking →
    SameButWorking (runSteps n s) (runSteps n t)

/-- A scan (R113) behaves the same for every value of PREV other than `0x0000` and `0xAA55`, so the choice of the
SENTINEL among them cannot be seen. -/
def Obligations.SentinelChoiceCannotBeSeen : Prop :=
  ∀ (s : State) (p : U16) (n : Nat), s.phase = .scanWord → s.prev ≠ 0x0000#16 →
    s.prev ≠ 0xAA55#16 → p ≠ 0x0000#16 → p ≠ 0xAA55#16 →
    SameButWorking (runSteps n s) (runSteps n { s with prev := p })

/-- A slot for which the pass accepted no record is as before, whatever the reason (R164, derived there). With the pass's own events
`evs`: a slot at or above LAST_RECORDS (no frame, or an abort before its index), and a slot with a CHECKSUM_FAULT
event of this pass, is unchanged. -/
def Obligations.PassLeavesUnacceptedSlotsUnchanged : Prop :=
  ∀ (s u t : State) (i : Instr), s.Inv → s.phase = .idle → runsPass i = true →
    exec i s = .next u → PassReaches u t → t.phase = .respond →
    ∃ evs, t.events = s.events ++ evs ∧
      (∀ j, t.lastRecords.toNat ≤ j → t.slots[j]? = s.slots[j]?) ∧
      (∀ (j : U16) (sig : U16), .checksumFault j sig ∈ evs →
        j.toNat < t.lastRecords.toNat ∧ t.slots[j.toNat]? = s.slots[j.toNat]?)

/-- After a pass (R165), LAST_RECORDS is LAST_ACCEPTED plus the number of CHECKSUM_FAULT events of this pass, and
every slot below LAST_RECORDS without such an event is PRESENT. -/
def Obligations.OtherSlotsBelowLastRecordsArePresentAfterAPass : Prop :=
  ∀ (s u t : State) (i : Instr), s.Inv → s.phase = .idle → runsPass i = true →
    exec i s = .next u → PassReaches u t → t.phase = .respond →
    ∃ evs, t.events = s.events ++ evs ∧
      t.lastRecords.toNat = t.lastAccepted.toNat + (evs.filter fun ev => ev ≠ .outOfSync).length ∧
      (∀ j : U16, j.toNat < t.lastRecords.toNat → (∀ sig, .checksumFault j sig ∉ evs) →
        ∃ d, t.slots[j.toNat]? = some (.present d))

/-! ## The reference transport -/

/-- The answers (R62) of the reference transport to a byte request. -/
def Obligations.ReferenceTransportAnswersByteRequests : Prop :=
  ∀ (q : List QueueItem) (ended nb : Bool) (e : Endian) (b : U8),
    RefTransport.readByte ⟨.flt :: q, ended, e, nb⟩ =
        .answered (.nonData .fault) (.reference ⟨q, ended, e, nb⟩) ∧
      RefTransport.readByte ⟨.byte b :: q, ended, e, nb⟩ =
        .answered (.data b) (.reference ⟨q, ended, e, nb⟩) ∧
      RefTransport.readByte ⟨[], true, e, nb⟩ =
        .answered (.nonData .eos) (.reference ⟨[], true, e, nb⟩) ∧
      RefTransport.readByte ⟨[], false, e, true⟩ =
        .answered (.nonData .noData) (.reference ⟨[], false, e, true⟩) ∧
      RefTransport.readByte ⟨[], false, e, false⟩ = .waiting

/-- The answers (R62, R63) of the reference transport to a word request; a lone byte stays in the queue. -/
def Obligations.ReferenceTransportAnswersWordRequests : Prop :=
  ∀ (q : List QueueItem) (ended nb : Bool) (e : Endian) (b0 b1 : U8),
    RefTransport.readWord ⟨.flt :: q, ended, e, nb⟩ =
        .answered (.nonData .fault) (.reference ⟨q, ended, e, nb⟩) ∧
      RefTransport.readWord ⟨.byte b0 :: .flt :: q, ended, e, nb⟩ =
        .answered (.nonData .fault) (.reference ⟨q, ended, e, nb⟩) ∧
      RefTransport.readWord ⟨.byte b0 :: .byte b1 :: q, ended, .little, nb⟩ =
        .answered (.data (b1 ++ b0)) (.reference ⟨q, ended, .little, nb⟩) ∧
      RefTransport.readWord ⟨.byte b0 :: .byte b1 :: q, ended, .big, nb⟩ =
        .answered (.data (b0 ++ b1)) (.reference ⟨q, ended, .big, nb⟩) ∧
      (∀ short : List QueueItem, short = [] ∨ short = [.byte b0] →
        RefTransport.readWord ⟨short, true, e, nb⟩ =
            .answered (.nonData .eos) (.reference ⟨short, true, e, nb⟩) ∧
          RefTransport.readWord ⟨short, false, e, true⟩ =
            .answered (.nonData .noData) (.reference ⟨short, false, e, true⟩) ∧
          RefTransport.readWord ⟨short, false, e, false⟩ = .waiting)

/-- A word read that returns data takes exactly two bytes from the front, a byte read exactly one (R61). In a stream
of the sender's words with the block at an alignment phase in it (R45), a word read keeps the phase and reads
the sender's word exactly as sent where it is aligned (R65); a byte read flips the phase. (How `framed` says
what the phase means is the model's, log 22.) -/
def Obligations.DataReadsConsumeAndShiftAlignment : Prop :=
  ∀ (t : RefTransport) (tr : Transport),
    (∀ v, t.readWord = .answered (.data v) tr →
      ∃ b0 b1 q, t.queue = .byte b0 :: .byte b1 :: q ∧ v = assemble t.endian b0 b1 ∧
        tr = .reference { t with queue := q } ∧
        (∀ words, t.framed .aligned words → words.head? = some v) ∧
        ∀ a words, t.framed a words → RefTransport.framed { t with queue := q } a words.tail) ∧
    (∀ b, t.readByte = .answered (.data b) tr →
      ∃ q, t.queue = .byte b :: q ∧ tr = .reference { t with queue := q } ∧
        ∀ a words, t.framed a words →
          RefTransport.framed { t with queue := q } a.flip (words.drop a.offset))

/-- The protocol constants have the bytes of the table of R86 (derived there from R63 and R9), and a word sent in the
transport's byte order is read back as that word (R62, R63). -/
def Obligations.WordsSurviveTheWire : Prop :=
  (∀ (e : Endian) (v : U16) (q : List QueueItem) (ended nb : Bool),
    RefTransport.readWord ⟨(wireBytes e v).map QueueItem.byte ++ q, ended, e, nb⟩ =
      .answered (.data v) (.reference ⟨q, ended, e, nb⟩)) ∧
    wireBytes .little 0xAA55#16 = [0x55#8, 0xAA#8] ∧ wireBytes .big 0xAA55#16 = [0xAA#8, 0x55#8] ∧
    wireBytes .little 0xAA56#16 = [0x56#8, 0xAA#8] ∧ wireBytes .big 0xAA56#16 = [0xAA#8, 0x56#8] ∧
    wireBytes .little 0x55AA#16 = [0xAA#8, 0x55#8] ∧ wireBytes .big 0x55AA#16 = [0x55#8, 0xAA#8] ∧
    wireBytes .little 0x0000#16 = [0x00#8, 0x00#8] ∧ wireBytes .big 0x0000#16 = [0x00#8, 0x00#8]

/-- A word read (R124) that starts in the middle of the sender's `0xAA55`, with the word `w2` behind it, reads a
straddle that is `0x55AA` exactly when `w2` ends in `0x55` (little-endian) or begins with `0xAA` (big-endian);
the recovery byte then is the last byte of `w2`, and what the sender sent after `w2` is aligned. -/
def Obligations.MisalignedFrameStartRealignsAfterTheSecondWord : Prop :=
  ∀ (e : Endian) (w2 : U16) (q : List QueueItem) (ended nb : Bool),
    ∃ straddle last,
      RefTransport.readWord
          ⟨((wireBytes e 0xAA55#16).drop 1 ++ wireBytes e w2).map QueueItem.byte ++ q, ended, e, nb⟩ =
        .answered (.data straddle) (.reference ⟨.byte last :: q, ended, e, nb⟩) ∧
      RefTransport.readByte ⟨.byte last :: q, ended, e, nb⟩ =
        .answered (.data last) (.reference ⟨q, ended, e, nb⟩) ∧
      (straddle = 0x55AA#16 ↔
        match e with
        | .little => w2.extractLsb' 0 8 = 0x55#8
        | .big => w2.extractLsb' 8 8 = 0xAA#8)

/-! ## The command notation -/

/-- Lines of the notation of R99 with their command words; a register name stands for its number. (Comments and
blanks are read as in log 17.) -/
def Obligations.AssembledCommandWords : Prop :=
  assembleWord "UPDATE".toList = .ok 0x01000000#32 ∧
    assembleWord "GETALL".toList = .ok 0x03000000#32 ∧
    assembleWord "GETDET 1".toList = .ok 0x02000001#32 ∧
    assembleWord "GETDET 0xFFFF".toList = .ok 0x0200FFFF#32 ∧
    assembleWord "RDREG OOS_COUNT".toList = .ok 0x04000004#32 ∧
    assembleWord "RDREG 0x0004".toList = .ok 0x04000004#32 ∧
    assembleWord "RDREG CAPACITY ; number 7".toList = .ok 0x04000007#32

/-! ## The alignment phase -/

/-- The step from `s` to `t` takes a byte from the stream as the answer to a byte request: the recovery byte (R118);
a byte that is there when a reset abandons its request; or, when a move reaches the transport, the byte of a
request that was abandoned before (R201). -/
def ByteTaken (s t : State) : Prop :=
  ∃ b, (nextMove s = .block ∧ s.phase = .scanByte ∧ s.abandoned = none ∧
      s.transport.readByte = .answered (.data b) t.transport) ∨
    (nextMove s = .reset ∧ s.outstanding = some .byte ∧
      s.transport.readByte = .answered (.data b) t.transport) ∨
    ∃ tr, s.transport.feed (nextMove s) = some tr ∧ s.abandoned = some .byte ∧
      tr.readByte = .answered (.data b) t.transport

/-- The alignment phase (R45, R61, R202). A step that takes a byte as the answer to a byte request flips it, and no
other step changes it: none that reads a word, and no reset that takes no byte. And it is what R45 says it is:
where the queue is what is left of the sender's words at the phase's offset, it is so after every step that appends
nothing to the queue. (That a byte request answered without a value leaves the phase, and what `framed` says, is the
model's reading, log 22; that a reset takes the response which is there, and that the response of an abandoned
request is awaited and taken when it arrives, so that R202's reset can come with a byte taken, is the model's
choice, log 12.) -/
def Obligations.AlignmentIsTheOffsetInTheSendersWords : Prop :=
  ∀ s t : State, step s = .next t →
    (ByteTaken s t → t.alignment = s.alignment.flip) ∧
    (¬ ByteTaken s t → t.alignment = s.alignment) ∧
    ((∀ x, nextMove s ≠ .item x) → ∀ words, s.framed words → ∃ n, t.framed (words.drop n))
end

