-- ==== Sys2Proof/Laws/Decode.lean ====
section
/-! SUPPORT. The fields of a command word (30_encoding.md R90). -/

namespace Sys2Proof

/-- OPCODE of a word built from its fields. -/
@[simp] theorem opcodeField_commandWord (op : U8) (arg : U16) :
    opcodeField (commandWord op arg) = op := by
  unfold opcodeField commandWord
  apply BitVec.eq_of_getLsbD_eq
  intro k hk
  simp [hk, show 24 + k < 32 by omega, BitVec.getLsbD_of_ge arg (24 + k) (by omega)]

/-- RSVD of a word built from its fields. -/
@[simp] theorem rsvdField_commandWord (op : U8) (arg : U16) :
    rsvdField (commandWord op arg) = 0#8 := by
  unfold rsvdField commandWord
  apply BitVec.eq_of_getLsbD_eq
  intro k hk
  simp [hk, show 16 + k < 24 by omega]

/-- ARG of a word built from its fields. -/
@[simp] theorem argField_commandWord (op : U8) (arg : U16) : argField (commandWord op arg) = arg := by
  unfold argField commandWord
  apply BitVec.eq_of_getLsbD_eq
  intro k hk
  simp [hk, show k < 24 by omega, show k < 32 by omega]

/-- A command word with RSVD 0 is the word of its OPCODE and ARG. -/
theorem commandWord_fields {word : U32} (h : rsvdField word = 0#8) :
    commandWord (opcodeField word) (argField word) = word := by
  apply BitVec.eq_of_getLsbD_eq
  intro k hk
  have hr : ∀ j, j < 8 → word.getLsbD (16 + j) = false := by
    intro j hj
    have := congrArg (fun v => v.getLsbD j) h
    simpa [rsvdField, hj] using this
  unfold commandWord opcodeField argField
  by_cases h1 : k < 16
  · simp [hk, h1, show k < 24 by omega]
  · by_cases h2 : k < 24
    · have := hr (k - 16) (by omega)
      rw [show 16 + (k - 16) = k by omega] at this
      simp [h1, h2, this, -BitVec.getLsbD_eq_getElem]
    · simp [hk, h1, h2, show 24 + (k - 24) = k by omega, show k - 24 < 8 by omega]

/-- A word is the word of its OPCODE and ARG exactly when RSVD is 0. -/
theorem word_eq_commandWord (word : U32) (op : U8) (arg : U16) :
    word = commandWord op arg ↔
      opcodeField word = op ∧ rsvdField word = 0#8 ∧ argField word = arg := by
  constructor
  · rintro rfl; simp
  · rintro ⟨rfl, h, rfl⟩; exact (commandWord_fields h).symm

/-! ### The rows of R91, by the fields of the word -/

/-- The bits of the mask of GET_DETECTION and READ_REG. -/
theorem highMask_bit : ∀ k < 32, (0xFFFF0000#32).getLsbD k = decide (16 ≤ k) := by decide

/-- That mask keeps OPCODE and RSVD. -/
theorem and_highMask_iff (word : U32) (op : U8) :
    word &&& 0xFFFF0000#32 = commandWord op 0#16 ↔ opcodeField word = op ∧ rsvdField word = 0#8 := by
  constructor
  · intro h
    have hb : ∀ k, k < 32 →
        (word.getLsbD k && decide (16 ≤ k)) = (commandWord op 0#16).getLsbD k := by
      intro k hk
      rw [← h, BitVec.getLsbD_and, highMask_bit k hk]
    constructor
    · rw [← opcodeField_commandWord op 0#16]
      apply BitVec.eq_of_getLsbD_eq
      intro k hk
      have := hb (24 + k) (by omega)
      simpa [opcodeField, hk, show 16 ≤ 24 + k by omega, -BitVec.getLsbD_eq_getElem] using this
    · rw [← rsvdField_commandWord op 0#16]
      apply BitVec.eq_of_getLsbD_eq
      intro k hk
      have := hb (16 + k) (by omega)
      simpa [rsvdField, hk, -BitVec.getLsbD_eq_getElem] using this
  · rintro ⟨rfl, hr⟩
    apply BitVec.eq_of_getLsbD_eq
    intro k hk
    rw [BitVec.getLsbD_and, highMask_bit k hk]
    conv_lhs => rw [← commandWord_fields hr]
    by_cases h16 : 16 ≤ k
    · simp [commandWord, hk, h16, -BitVec.getLsbD_eq_getElem]
    · simp [commandWord, hk, h16, -BitVec.getLsbD_eq_getElem, show k < 24 by omega]

/-- The mask of UPDATE and GET_ALL keeps every bit. -/
theorem and_allMask (word : U32) : word &&& 0xFFFFFFFF#32 = word := by
  have h : 0xFFFFFFFF#32 = BitVec.allOnes 32 := by decide
  rw [h, BitVec.and_allOnes]

/-- The row of UPDATE. -/
theorem rowUpdate_hits (word : U32) : rowUpdate.hits word = true ↔
    opcodeField word = 1#8 ∧ rsvdField word = 0#8 ∧ argField word = 0#16 := by
  rw [← word_eq_commandWord]
  simp only [RowBits.hits, rowUpdate, and_allMask, beq_iff_eq]
  rfl

/-- The row of GET_DETECTION. -/
theorem rowGetDetection_hits (word : U32) : rowGetDetection.hits word = true ↔
    opcodeField word = 2#8 ∧ rsvdField word = 0#8 := by
  rw [← and_highMask_iff]
  simp only [RowBits.hits, rowGetDetection, beq_iff_eq]
  rfl

/-- The row of GET_ALL. -/
theorem rowGetAll_hits (word : U32) : rowGetAll.hits word = true ↔
    opcodeField word = 3#8 ∧ rsvdField word = 0#8 ∧ argField word = 0#16 := by
  rw [← word_eq_commandWord]
  simp only [RowBits.hits, rowGetAll, and_allMask, beq_iff_eq]
  rfl

/-- The row of READ_REG. -/
theorem rowReadReg_hits (word : U32) : rowReadReg.hits word = true ↔
    opcodeField word = 4#8 ∧ rsvdField word = 0#8 := by
  rw [← and_highMask_iff]
  simp only [RowBits.hits, rowReadReg, beq_iff_eq]
  rfl

/-- The command decoder by the fields of the word. -/
theorem decodeCommand_eq (word : U32) :
    decodeCommand word =
      if rsvdField word = 0#8 then
        if opcodeField word = 1#8 ∧ argField word = 0#16 then .update
        else if opcodeField word = 2#8 then .getDetection (argField word)
        else if opcodeField word = 3#8 ∧ argField word = 0#16 then .getAll
        else if opcodeField word = 4#8 then .readReg (argField word)
        else .illegal word
      else .illegal word := by
  simp only [decodeCommand, rowUpdate_hits, rowGetAll_hits, rowReadReg_hits, rowGetDetection_hits]
  by_cases hr : rsvdField word = 0#8 <;> simp [hr]

/-! ### The classes of R80 and R85 -/

@[simp] theorem decodeScan_zero : decodeScan 0x0000#16 = .scanIdleZero := by decide
@[simp] theorem decodeScan_syncNormal : decodeScan 0xAA55#16 = .scanSyncNormal := by decide
@[simp] theorem decodeScan_syncColorCode : decodeScan 0xAA56#16 = .scanSyncColorCode := by decide
@[simp] theorem decodeScan_outOfSync : decodeScan 0x55AA#16 = .scanOutOfSync := by decide
@[simp] theorem decodeRecord_syncNormal : decodeRecord 0xAA55#16 = .recSyncNormal := by decide
@[simp] theorem decodeRecord_syncColorCode : decodeRecord 0xAA56#16 = .recSyncColorCode := by decide

/-- The five classes of a scan word (R80). -/
theorem decodeScan_cases (v : U16) :
    (v = 0x0000#16 ∧ decodeScan v = .scanIdleZero) ∨
      (v = 0xAA55#16 ∧ decodeScan v = .scanSyncNormal) ∨
      (v = 0xAA56#16 ∧ decodeScan v = .scanSyncColorCode) ∨
      (v = 0x55AA#16 ∧ decodeScan v = .scanOutOfSync) ∨
      (v ≠ 0x0000#16 ∧ v ≠ 0xAA55#16 ∧ v ≠ 0xAA56#16 ∧ v ≠ 0x55AA#16 ∧
        decodeScan v = .scanOther v) := by
  unfold decodeScan
  repeat' split
  all_goals simp_all

/-- The three classes of a word in a sync position (R85). -/
theorem decodeRecord_cases (v : U16) :
    (v = 0xAA55#16 ∧ decodeRecord v = .recSyncNormal) ∨
      (v = 0xAA56#16 ∧ decodeRecord v = .recSyncColorCode) ∨
      (v ≠ 0xAA55#16 ∧ v ≠ 0xAA56#16 ∧ decodeRecord v = .recSyncBad v) := by
  unfold decodeRecord
  repeat' split
  all_goals simp_all

end Sys2Proof
end

