-- ==== Sys2Proof/Laws/State.lean ====
section
/-! SUPPORT. One lemma per field and record update of Machine/Ops.lean, Machine/Commands.lean and
Machine/Environment.lean: what the field holds after the update. -/

namespace Sys2Proof.Machine

/-! ### `State.latch` -/

@[simp] theorem State.latch_config (s : State) (word : U32) : (s.latch word).config = s.config := rfl
@[simp] theorem State.latch_phase (s : State) (word : U32) : (s.latch word).phase = s.phase := rfl
@[simp] theorem State.latch_k (s : State) (word : U32) : (s.latch word).k = s.k := rfl
@[simp] theorem State.latch_cmdOp (s : State) (word : U32) : (s.latch word).cmdOp = opcodeField word := rfl
@[simp] theorem State.latch_cmdArg (s : State) (word : U32) : (s.latch word).cmdArg = argField word := rfl
@[simp] theorem State.latch_prev (s : State) (word : U32) : (s.latch word).prev = s.prev := rfl
@[simp] theorem State.latch_cur (s : State) (word : U32) : (s.latch word).cur = s.cur := rfl
@[simp] theorem State.latch_scnt (s : State) (word : U32) : (s.latch word).scnt = s.scnt := rfl
@[simp] theorem State.latch_i (s : State) (word : U32) : (s.latch word).i = s.i := rfl
@[simp] theorem State.latch_btype (s : State) (word : U32) : (s.latch word).btype = s.btype := rfl
@[simp] theorem State.latch_tScan (s : State) (word : U32) : (s.latch word).tScan = s.tScan := rfl
@[simp] theorem State.latch_nrec (s : State) (word : U32) : (s.latch word).nrec = s.nrec := rfl
@[simp] theorem State.latch_nacc (s : State) (word : U32) : (s.latch word).nacc = s.nacc := rfl
@[simp] theorem State.latch_fCk (s : State) (word : U32) : (s.latch word).fCk = s.fCk := rfl
@[simp] theorem State.latch_fSig (s : State) (word : U32) : (s.latch word).fSig = s.fSig := rfl
@[simp] theorem State.latch_fX (s : State) (word : U32) : (s.latch word).fX = s.fX := rfl
@[simp] theorem State.latch_fY (s : State) (word : U32) : (s.latch word).fY = s.fY := rfl
@[simp] theorem State.latch_fW (s : State) (word : U32) : (s.latch word).fW = s.fW := rfl
@[simp] theorem State.latch_fH (s : State) (word : U32) : (s.latch word).fH = s.fH := rfl
@[simp] theorem State.latch_fAng (s : State) (word : U32) : (s.latch word).fAng = s.fAng := rfl
@[simp] theorem State.latch_slots (s : State) (word : U32) : (s.latch word).slots = s.slots := rfl
@[simp] theorem State.latch_status (s : State) (word : U32) : (s.latch word).status = s.status := rfl
@[simp] theorem State.latch_lastRecords (s : State) (word : U32) : (s.latch word).lastRecords = s.lastRecords := rfl
@[simp] theorem State.latch_lastAccepted (s : State) (word : U32) : (s.latch word).lastAccepted = s.lastAccepted := rfl
@[simp] theorem State.latch_lastScanWords (s : State) (word : U32) : (s.latch word).lastScanWords = s.lastScanWords := rfl
@[simp] theorem State.latch_oosCount (s : State) (word : U32) : (s.latch word).oosCount = s.oosCount := rfl
@[simp] theorem State.latch_cksumFaultCount (s : State) (word : U32) : (s.latch word).cksumFaultCount = s.cksumFaultCount := rfl
@[simp] theorem State.latch_lastFaultSig (s : State) (word : U32) : (s.latch word).lastFaultSig = s.lastFaultSig := rfl
@[simp] theorem State.latch_events (s : State) (word : U32) : (s.latch word).events = s.events := rfl
@[simp] theorem State.latch_response (s : State) (word : U32) : (s.latch word).response = s.response := rfl
@[simp] theorem State.latch_outstanding (s : State) (word : U32) : (s.latch word).outstanding = s.outstanding := rfl
@[simp] theorem State.latch_abandoned (s : State) (word : U32) : (s.latch word).abandoned = s.abandoned := rfl
@[simp] theorem State.latch_commands (s : State) (word : U32) : (s.latch word).commands = s.commands := rfl
@[simp] theorem State.latch_transport (s : State) (word : U32) : (s.latch word).transport = s.transport := rfl
@[simp] theorem State.latch_alignment (s : State) (word : U32) : (s.latch word).alignment = s.alignment := rfl
@[simp] theorem State.latch_hostReady (s : State) (word : U32) : (s.latch word).hostReady = s.hostReady := rfl
@[simp] theorem State.latch_delivered (s : State) (word : U32) : (s.latch word).delivered = s.delivered := rfl
@[simp] theorem State.latch_schedule (s : State) (word : U32) : (s.latch word).schedule = s.schedule := rfl

/-! ### `State.respond` -/

@[simp] theorem State.respond_config (s : State) (words : List U16) : (s.respond words).config = s.config := rfl
@[simp] theorem State.respond_phase (s : State) (words : List U16) : (s.respond words).phase = .respond := rfl
@[simp] theorem State.respond_k (s : State) (words : List U16) : (s.respond words).k = s.k := rfl
@[simp] theorem State.respond_cmdOp (s : State) (words : List U16) : (s.respond words).cmdOp = s.cmdOp := rfl
@[simp] theorem State.respond_cmdArg (s : State) (words : List U16) : (s.respond words).cmdArg = s.cmdArg := rfl
@[simp] theorem State.respond_prev (s : State) (words : List U16) : (s.respond words).prev = s.prev := rfl
@[simp] theorem State.respond_cur (s : State) (words : List U16) : (s.respond words).cur = s.cur := rfl
@[simp] theorem State.respond_scnt (s : State) (words : List U16) : (s.respond words).scnt = s.scnt := rfl
@[simp] theorem State.respond_i (s : State) (words : List U16) : (s.respond words).i = s.i := rfl
@[simp] theorem State.respond_btype (s : State) (words : List U16) : (s.respond words).btype = s.btype := rfl
@[simp] theorem State.respond_tScan (s : State) (words : List U16) : (s.respond words).tScan = s.tScan := rfl
@[simp] theorem State.respond_nrec (s : State) (words : List U16) : (s.respond words).nrec = s.nrec := rfl
@[simp] theorem State.respond_nacc (s : State) (words : List U16) : (s.respond words).nacc = s.nacc := rfl
@[simp] theorem State.respond_fCk (s : State) (words : List U16) : (s.respond words).fCk = s.fCk := rfl
@[simp] theorem State.respond_fSig (s : State) (words : List U16) : (s.respond words).fSig = s.fSig := rfl
@[simp] theorem State.respond_fX (s : State) (words : List U16) : (s.respond words).fX = s.fX := rfl
@[simp] theorem State.respond_fY (s : State) (words : List U16) : (s.respond words).fY = s.fY := rfl
@[simp] theorem State.respond_fW (s : State) (words : List U16) : (s.respond words).fW = s.fW := rfl
@[simp] theorem State.respond_fH (s : State) (words : List U16) : (s.respond words).fH = s.fH := rfl
@[simp] theorem State.respond_fAng (s : State) (words : List U16) : (s.respond words).fAng = s.fAng := rfl
@[simp] theorem State.respond_slots (s : State) (words : List U16) : (s.respond words).slots = s.slots := rfl
@[simp] theorem State.respond_status (s : State) (words : List U16) : (s.respond words).status = s.status := rfl
@[simp] theorem State.respond_lastRecords (s : State) (words : List U16) : (s.respond words).lastRecords = s.lastRecords := rfl
@[simp] theorem State.respond_lastAccepted (s : State) (words : List U16) : (s.respond words).lastAccepted = s.lastAccepted := rfl
@[simp] theorem State.respond_lastScanWords (s : State) (words : List U16) : (s.respond words).lastScanWords = s.lastScanWords := rfl
@[simp] theorem State.respond_oosCount (s : State) (words : List U16) : (s.respond words).oosCount = s.oosCount := rfl
@[simp] theorem State.respond_cksumFaultCount (s : State) (words : List U16) : (s.respond words).cksumFaultCount = s.cksumFaultCount := rfl
@[simp] theorem State.respond_lastFaultSig (s : State) (words : List U16) : (s.respond words).lastFaultSig = s.lastFaultSig := rfl
@[simp] theorem State.respond_events (s : State) (words : List U16) : (s.respond words).events = s.events := rfl
@[simp] theorem State.respond_response (s : State) (words : List U16) : (s.respond words).response = words := rfl
@[simp] theorem State.respond_outstanding (s : State) (words : List U16) : (s.respond words).outstanding = s.outstanding := rfl
@[simp] theorem State.respond_abandoned (s : State) (words : List U16) : (s.respond words).abandoned = s.abandoned := rfl
@[simp] theorem State.respond_commands (s : State) (words : List U16) : (s.respond words).commands = s.commands := rfl
@[simp] theorem State.respond_transport (s : State) (words : List U16) : (s.respond words).transport = s.transport := rfl
@[simp] theorem State.respond_alignment (s : State) (words : List U16) : (s.respond words).alignment = s.alignment := rfl
@[simp] theorem State.respond_hostReady (s : State) (words : List U16) : (s.respond words).hostReady = s.hostReady := rfl
@[simp] theorem State.respond_delivered (s : State) (words : List U16) : (s.respond words).delivered = s.delivered := rfl
@[simp] theorem State.respond_schedule (s : State) (words : List U16) : (s.respond words).schedule = s.schedule := rfl

/-! ### `State.emit` -/

@[simp] theorem State.emit_config (s : State) (ev : Event) : (s.emit ev).config = s.config := rfl
@[simp] theorem State.emit_phase (s : State) (ev : Event) : (s.emit ev).phase = s.phase := rfl
@[simp] theorem State.emit_k (s : State) (ev : Event) : (s.emit ev).k = s.k := rfl
@[simp] theorem State.emit_cmdOp (s : State) (ev : Event) : (s.emit ev).cmdOp = s.cmdOp := rfl
@[simp] theorem State.emit_cmdArg (s : State) (ev : Event) : (s.emit ev).cmdArg = s.cmdArg := rfl
@[simp] theorem State.emit_prev (s : State) (ev : Event) : (s.emit ev).prev = s.prev := rfl
@[simp] theorem State.emit_cur (s : State) (ev : Event) : (s.emit ev).cur = s.cur := rfl
@[simp] theorem State.emit_scnt (s : State) (ev : Event) : (s.emit ev).scnt = s.scnt := rfl
@[simp] theorem State.emit_i (s : State) (ev : Event) : (s.emit ev).i = s.i := rfl
@[simp] theorem State.emit_btype (s : State) (ev : Event) : (s.emit ev).btype = s.btype := rfl
@[simp] theorem State.emit_tScan (s : State) (ev : Event) : (s.emit ev).tScan = s.tScan := rfl
@[simp] theorem State.emit_nrec (s : State) (ev : Event) : (s.emit ev).nrec = s.nrec := rfl
@[simp] theorem State.emit_nacc (s : State) (ev : Event) : (s.emit ev).nacc = s.nacc := rfl
@[simp] theorem State.emit_fCk (s : State) (ev : Event) : (s.emit ev).fCk = s.fCk := rfl
@[simp] theorem State.emit_fSig (s : State) (ev : Event) : (s.emit ev).fSig = s.fSig := rfl
@[simp] theorem State.emit_fX (s : State) (ev : Event) : (s.emit ev).fX = s.fX := rfl
@[simp] theorem State.emit_fY (s : State) (ev : Event) : (s.emit ev).fY = s.fY := rfl
@[simp] theorem State.emit_fW (s : State) (ev : Event) : (s.emit ev).fW = s.fW := rfl
@[simp] theorem State.emit_fH (s : State) (ev : Event) : (s.emit ev).fH = s.fH := rfl
@[simp] theorem State.emit_fAng (s : State) (ev : Event) : (s.emit ev).fAng = s.fAng := rfl
@[simp] theorem State.emit_slots (s : State) (ev : Event) : (s.emit ev).slots = s.slots := rfl
@[simp] theorem State.emit_status (s : State) (ev : Event) : (s.emit ev).status = s.status := rfl
@[simp] theorem State.emit_lastRecords (s : State) (ev : Event) : (s.emit ev).lastRecords = s.lastRecords := rfl
@[simp] theorem State.emit_lastAccepted (s : State) (ev : Event) : (s.emit ev).lastAccepted = s.lastAccepted := rfl
@[simp] theorem State.emit_lastScanWords (s : State) (ev : Event) : (s.emit ev).lastScanWords = s.lastScanWords := rfl
@[simp] theorem State.emit_oosCount (s : State) (ev : Event) : (s.emit ev).oosCount = s.oosCount := rfl
@[simp] theorem State.emit_cksumFaultCount (s : State) (ev : Event) : (s.emit ev).cksumFaultCount = s.cksumFaultCount := rfl
@[simp] theorem State.emit_lastFaultSig (s : State) (ev : Event) : (s.emit ev).lastFaultSig = s.lastFaultSig := rfl
@[simp] theorem State.emit_events (s : State) (ev : Event) : (s.emit ev).events = s.events ++ [ev] := rfl
@[simp] theorem State.emit_response (s : State) (ev : Event) : (s.emit ev).response = s.response := rfl
@[simp] theorem State.emit_outstanding (s : State) (ev : Event) : (s.emit ev).outstanding = s.outstanding := rfl
@[simp] theorem State.emit_abandoned (s : State) (ev : Event) : (s.emit ev).abandoned = s.abandoned := rfl
@[simp] theorem State.emit_commands (s : State) (ev : Event) : (s.emit ev).commands = s.commands := rfl
@[simp] theorem State.emit_transport (s : State) (ev : Event) : (s.emit ev).transport = s.transport := rfl
@[simp] theorem State.emit_alignment (s : State) (ev : Event) : (s.emit ev).alignment = s.alignment := rfl
@[simp] theorem State.emit_hostReady (s : State) (ev : Event) : (s.emit ev).hostReady = s.hostReady := rfl
@[simp] theorem State.emit_delivered (s : State) (ev : Event) : (s.emit ev).delivered = s.delivered := rfl
@[simp] theorem State.emit_schedule (s : State) (ev : Event) : (s.emit ev).schedule = s.schedule := rfl

/-! ### `State.startPass` -/

@[simp] theorem State.startPass_config (s : State) : (s.startPass).config = s.config := rfl
@[simp] theorem State.startPass_phase (s : State) : (s.startPass).phase = .scanWord := rfl
@[simp] theorem State.startPass_k (s : State) : (s.startPass).k = s.k := rfl
@[simp] theorem State.startPass_cmdOp (s : State) : (s.startPass).cmdOp = s.cmdOp := rfl
@[simp] theorem State.startPass_cmdArg (s : State) : (s.startPass).cmdArg = s.cmdArg := rfl
@[simp] theorem State.startPass_prev (s : State) : (s.startPass).prev = sentinel := rfl
@[simp] theorem State.startPass_cur (s : State) : (s.startPass).cur = s.cur := rfl
@[simp] theorem State.startPass_scnt (s : State) : (s.startPass).scnt = 0#16 := rfl
@[simp] theorem State.startPass_i (s : State) : (s.startPass).i = s.i := rfl
@[simp] theorem State.startPass_btype (s : State) : (s.startPass).btype = s.btype := rfl
@[simp] theorem State.startPass_tScan (s : State) : (s.startPass).tScan = s.tScan := rfl
@[simp] theorem State.startPass_nrec (s : State) : (s.startPass).nrec = 0#16 := rfl
@[simp] theorem State.startPass_nacc (s : State) : (s.startPass).nacc = 0#16 := rfl
@[simp] theorem State.startPass_fCk (s : State) : (s.startPass).fCk = s.fCk := rfl
@[simp] theorem State.startPass_fSig (s : State) : (s.startPass).fSig = s.fSig := rfl
@[simp] theorem State.startPass_fX (s : State) : (s.startPass).fX = s.fX := rfl
@[simp] theorem State.startPass_fY (s : State) : (s.startPass).fY = s.fY := rfl
@[simp] theorem State.startPass_fW (s : State) : (s.startPass).fW = s.fW := rfl
@[simp] theorem State.startPass_fH (s : State) : (s.startPass).fH = s.fH := rfl
@[simp] theorem State.startPass_fAng (s : State) : (s.startPass).fAng = s.fAng := rfl
@[simp] theorem State.startPass_slots (s : State) : (s.startPass).slots = s.slots := rfl
@[simp] theorem State.startPass_status (s : State) : (s.startPass).status = s.status := rfl
@[simp] theorem State.startPass_lastRecords (s : State) : (s.startPass).lastRecords = s.lastRecords := rfl
@[simp] theorem State.startPass_lastAccepted (s : State) : (s.startPass).lastAccepted = s.lastAccepted := rfl
@[simp] theorem State.startPass_lastScanWords (s : State) : (s.startPass).lastScanWords = s.lastScanWords := rfl
@[simp] theorem State.startPass_oosCount (s : State) : (s.startPass).oosCount = s.oosCount := rfl
@[simp] theorem State.startPass_cksumFaultCount (s : State) : (s.startPass).cksumFaultCount = s.cksumFaultCount := rfl
@[simp] theorem State.startPass_lastFaultSig (s : State) : (s.startPass).lastFaultSig = s.lastFaultSig := rfl
@[simp] theorem State.startPass_events (s : State) : (s.startPass).events = s.events := rfl
@[simp] theorem State.startPass_response (s : State) : (s.startPass).response = s.response := rfl
@[simp] theorem State.startPass_outstanding (s : State) : (s.startPass).outstanding = s.outstanding := rfl
@[simp] theorem State.startPass_abandoned (s : State) : (s.startPass).abandoned = s.abandoned := rfl
@[simp] theorem State.startPass_commands (s : State) : (s.startPass).commands = s.commands := rfl
@[simp] theorem State.startPass_transport (s : State) : (s.startPass).transport = s.transport := rfl
@[simp] theorem State.startPass_alignment (s : State) : (s.startPass).alignment = s.alignment := rfl
@[simp] theorem State.startPass_hostReady (s : State) : (s.startPass).hostReady = s.hostReady := rfl
@[simp] theorem State.startPass_delivered (s : State) : (s.startPass).delivered = s.delivered := rfl
@[simp] theorem State.startPass_schedule (s : State) : (s.startPass).schedule = s.schedule := rfl

/-! ### `State.finish` -/

@[simp] theorem State.finish_config (s : State) (code : ResultCode) (synced : Bool) (cc : BlockType) : (s.finish code synced cc).config = s.config := rfl
@[simp] theorem State.finish_phase (s : State) (code : ResultCode) (synced : Bool) (cc : BlockType) : (s.finish code synced cc).phase = .respond := rfl
@[simp] theorem State.finish_k (s : State) (code : ResultCode) (synced : Bool) (cc : BlockType) : (s.finish code synced cc).k = s.k := rfl
@[simp] theorem State.finish_cmdOp (s : State) (code : ResultCode) (synced : Bool) (cc : BlockType) : (s.finish code synced cc).cmdOp = s.cmdOp := rfl
@[simp] theorem State.finish_cmdArg (s : State) (code : ResultCode) (synced : Bool) (cc : BlockType) : (s.finish code synced cc).cmdArg = s.cmdArg := rfl
@[simp] theorem State.finish_prev (s : State) (code : ResultCode) (synced : Bool) (cc : BlockType) : (s.finish code synced cc).prev = s.prev := rfl
@[simp] theorem State.finish_cur (s : State) (code : ResultCode) (synced : Bool) (cc : BlockType) : (s.finish code synced cc).cur = s.cur := rfl
@[simp] theorem State.finish_scnt (s : State) (code : ResultCode) (synced : Bool) (cc : BlockType) : (s.finish code synced cc).scnt = s.scnt := rfl
@[simp] theorem State.finish_i (s : State) (code : ResultCode) (synced : Bool) (cc : BlockType) : (s.finish code synced cc).i = s.i := rfl
@[simp] theorem State.finish_btype (s : State) (code : ResultCode) (synced : Bool) (cc : BlockType) : (s.finish code synced cc).btype = s.btype := rfl
@[simp] theorem State.finish_tScan (s : State) (code : ResultCode) (synced : Bool) (cc : BlockType) : (s.finish code synced cc).tScan = s.tScan := rfl
@[simp] theorem State.finish_nrec (s : State) (code : ResultCode) (synced : Bool) (cc : BlockType) : (s.finish code synced cc).nrec = s.nrec := rfl
@[simp] theorem State.finish_nacc (s : State) (code : ResultCode) (synced : Bool) (cc : BlockType) : (s.finish code synced cc).nacc = s.nacc := rfl
@[simp] theorem State.finish_fCk (s : State) (code : ResultCode) (synced : Bool) (cc : BlockType) : (s.finish code synced cc).fCk = s.fCk := rfl
@[simp] theorem State.finish_fSig (s : State) (code : ResultCode) (synced : Bool) (cc : BlockType) : (s.finish code synced cc).fSig = s.fSig := rfl
@[simp] theorem State.finish_fX (s : State) (code : ResultCode) (synced : Bool) (cc : BlockType) : (s.finish code synced cc).fX = s.fX := rfl
@[simp] theorem State.finish_fY (s : State) (code : ResultCode) (synced : Bool) (cc : BlockType) : (s.finish code synced cc).fY = s.fY := rfl
@[simp] theorem State.finish_fW (s : State) (code : ResultCode) (synced : Bool) (cc : BlockType) : (s.finish code synced cc).fW = s.fW := rfl
@[simp] theorem State.finish_fH (s : State) (code : ResultCode) (synced : Bool) (cc : BlockType) : (s.finish code synced cc).fH = s.fH := rfl
@[simp] theorem State.finish_fAng (s : State) (code : ResultCode) (synced : Bool) (cc : BlockType) : (s.finish code synced cc).fAng = s.fAng := rfl
@[simp] theorem State.finish_slots (s : State) (code : ResultCode) (synced : Bool) (cc : BlockType) : (s.finish code synced cc).slots = s.slots := rfl
@[simp] theorem State.finish_status (s : State) (code : ResultCode) (synced : Bool) (cc : BlockType) : (s.finish code synced cc).status = statusWord code synced cc := rfl
@[simp] theorem State.finish_lastRecords (s : State) (code : ResultCode) (synced : Bool) (cc : BlockType) : (s.finish code synced cc).lastRecords = s.nrec := rfl
@[simp] theorem State.finish_lastAccepted (s : State) (code : ResultCode) (synced : Bool) (cc : BlockType) : (s.finish code synced cc).lastAccepted = s.nacc := rfl
@[simp] theorem State.finish_lastScanWords (s : State) (code : ResultCode) (synced : Bool) (cc : BlockType) : (s.finish code synced cc).lastScanWords = s.scnt := rfl
@[simp] theorem State.finish_oosCount (s : State) (code : ResultCode) (synced : Bool) (cc : BlockType) : (s.finish code synced cc).oosCount = s.oosCount := rfl
@[simp] theorem State.finish_cksumFaultCount (s : State) (code : ResultCode) (synced : Bool) (cc : BlockType) : (s.finish code synced cc).cksumFaultCount = s.cksumFaultCount := rfl
@[simp] theorem State.finish_lastFaultSig (s : State) (code : ResultCode) (synced : Bool) (cc : BlockType) : (s.finish code synced cc).lastFaultSig = s.lastFaultSig := rfl
@[simp] theorem State.finish_events (s : State) (code : ResultCode) (synced : Bool) (cc : BlockType) : (s.finish code synced cc).events = s.events := rfl
@[simp] theorem State.finish_response (s : State) (code : ResultCode) (synced : Bool) (cc : BlockType) : (s.finish code synced cc).response = s.passResponse code := rfl
@[simp] theorem State.finish_outstanding (s : State) (code : ResultCode) (synced : Bool) (cc : BlockType) : (s.finish code synced cc).outstanding = s.outstanding := rfl
@[simp] theorem State.finish_abandoned (s : State) (code : ResultCode) (synced : Bool) (cc : BlockType) : (s.finish code synced cc).abandoned = s.abandoned := rfl
@[simp] theorem State.finish_commands (s : State) (code : ResultCode) (synced : Bool) (cc : BlockType) : (s.finish code synced cc).commands = s.commands := rfl
@[simp] theorem State.finish_transport (s : State) (code : ResultCode) (synced : Bool) (cc : BlockType) : (s.finish code synced cc).transport = s.transport := rfl
@[simp] theorem State.finish_alignment (s : State) (code : ResultCode) (synced : Bool) (cc : BlockType) : (s.finish code synced cc).alignment = s.alignment := rfl
@[simp] theorem State.finish_hostReady (s : State) (code : ResultCode) (synced : Bool) (cc : BlockType) : (s.finish code synced cc).hostReady = s.hostReady := rfl
@[simp] theorem State.finish_delivered (s : State) (code : ResultCode) (synced : Bool) (cc : BlockType) : (s.finish code synced cc).delivered = s.delivered := rfl
@[simp] theorem State.finish_schedule (s : State) (code : ResultCode) (synced : Bool) (cc : BlockType) : (s.finish code synced cc).schedule = s.schedule := rfl

/-! ### `State.noFrame` -/

@[simp] theorem State.noFrame_config (s : State) (code : ResultCode) : (s.noFrame code).config = s.config := rfl
@[simp] theorem State.noFrame_phase (s : State) (code : ResultCode) : (s.noFrame code).phase = .respond := rfl
@[simp] theorem State.noFrame_k (s : State) (code : ResultCode) : (s.noFrame code).k = s.k := rfl
@[simp] theorem State.noFrame_cmdOp (s : State) (code : ResultCode) : (s.noFrame code).cmdOp = s.cmdOp := rfl
@[simp] theorem State.noFrame_cmdArg (s : State) (code : ResultCode) : (s.noFrame code).cmdArg = s.cmdArg := rfl
@[simp] theorem State.noFrame_prev (s : State) (code : ResultCode) : (s.noFrame code).prev = s.prev := rfl
@[simp] theorem State.noFrame_cur (s : State) (code : ResultCode) : (s.noFrame code).cur = s.cur := rfl
@[simp] theorem State.noFrame_scnt (s : State) (code : ResultCode) : (s.noFrame code).scnt = s.scnt := rfl
@[simp] theorem State.noFrame_i (s : State) (code : ResultCode) : (s.noFrame code).i = s.i := rfl
@[simp] theorem State.noFrame_btype (s : State) (code : ResultCode) : (s.noFrame code).btype = s.btype := rfl
@[simp] theorem State.noFrame_tScan (s : State) (code : ResultCode) : (s.noFrame code).tScan = s.tScan := rfl
@[simp] theorem State.noFrame_nrec (s : State) (code : ResultCode) : (s.noFrame code).nrec = s.nrec := rfl
@[simp] theorem State.noFrame_nacc (s : State) (code : ResultCode) : (s.noFrame code).nacc = s.nacc := rfl
@[simp] theorem State.noFrame_fCk (s : State) (code : ResultCode) : (s.noFrame code).fCk = s.fCk := rfl
@[simp] theorem State.noFrame_fSig (s : State) (code : ResultCode) : (s.noFrame code).fSig = s.fSig := rfl
@[simp] theorem State.noFrame_fX (s : State) (code : ResultCode) : (s.noFrame code).fX = s.fX := rfl
@[simp] theorem State.noFrame_fY (s : State) (code : ResultCode) : (s.noFrame code).fY = s.fY := rfl
@[simp] theorem State.noFrame_fW (s : State) (code : ResultCode) : (s.noFrame code).fW = s.fW := rfl
@[simp] theorem State.noFrame_fH (s : State) (code : ResultCode) : (s.noFrame code).fH = s.fH := rfl
@[simp] theorem State.noFrame_fAng (s : State) (code : ResultCode) : (s.noFrame code).fAng = s.fAng := rfl
@[simp] theorem State.noFrame_slots (s : State) (code : ResultCode) : (s.noFrame code).slots = s.slots := rfl
@[simp] theorem State.noFrame_status (s : State) (code : ResultCode) : (s.noFrame code).status = statusWord code false .normal := rfl
@[simp] theorem State.noFrame_lastRecords (s : State) (code : ResultCode) : (s.noFrame code).lastRecords = s.nrec := rfl
@[simp] theorem State.noFrame_lastAccepted (s : State) (code : ResultCode) : (s.noFrame code).lastAccepted = s.nacc := rfl
@[simp] theorem State.noFrame_lastScanWords (s : State) (code : ResultCode) : (s.noFrame code).lastScanWords = s.scnt := rfl
@[simp] theorem State.noFrame_oosCount (s : State) (code : ResultCode) : (s.noFrame code).oosCount = s.oosCount := rfl
@[simp] theorem State.noFrame_cksumFaultCount (s : State) (code : ResultCode) : (s.noFrame code).cksumFaultCount = s.cksumFaultCount := rfl
@[simp] theorem State.noFrame_lastFaultSig (s : State) (code : ResultCode) : (s.noFrame code).lastFaultSig = s.lastFaultSig := rfl
@[simp] theorem State.noFrame_events (s : State) (code : ResultCode) : (s.noFrame code).events = s.events := rfl
@[simp] theorem State.noFrame_response (s : State) (code : ResultCode) : (s.noFrame code).response = s.passResponse code := rfl
@[simp] theorem State.noFrame_outstanding (s : State) (code : ResultCode) : (s.noFrame code).outstanding = s.outstanding := rfl
@[simp] theorem State.noFrame_abandoned (s : State) (code : ResultCode) : (s.noFrame code).abandoned = s.abandoned := rfl
@[simp] theorem State.noFrame_commands (s : State) (code : ResultCode) : (s.noFrame code).commands = s.commands := rfl
@[simp] theorem State.noFrame_transport (s : State) (code : ResultCode) : (s.noFrame code).transport = s.transport := rfl
@[simp] theorem State.noFrame_alignment (s : State) (code : ResultCode) : (s.noFrame code).alignment = s.alignment := rfl
@[simp] theorem State.noFrame_hostReady (s : State) (code : ResultCode) : (s.noFrame code).hostReady = s.hostReady := rfl
@[simp] theorem State.noFrame_delivered (s : State) (code : ResultCode) : (s.noFrame code).delivered = s.delivered := rfl
@[simp] theorem State.noFrame_schedule (s : State) (code : ResultCode) : (s.noFrame code).schedule = s.schedule := rfl

/-! ### `State.abortPass` -/

@[simp] theorem State.abortPass_config (s : State) (code : ResultCode) : (s.abortPass code).config = s.config := rfl
@[simp] theorem State.abortPass_phase (s : State) (code : ResultCode) : (s.abortPass code).phase = .respond := rfl
@[simp] theorem State.abortPass_k (s : State) (code : ResultCode) : (s.abortPass code).k = s.k := rfl
@[simp] theorem State.abortPass_cmdOp (s : State) (code : ResultCode) : (s.abortPass code).cmdOp = s.cmdOp := rfl
@[simp] theorem State.abortPass_cmdArg (s : State) (code : ResultCode) : (s.abortPass code).cmdArg = s.cmdArg := rfl
@[simp] theorem State.abortPass_prev (s : State) (code : ResultCode) : (s.abortPass code).prev = s.prev := rfl
@[simp] theorem State.abortPass_cur (s : State) (code : ResultCode) : (s.abortPass code).cur = s.cur := rfl
@[simp] theorem State.abortPass_scnt (s : State) (code : ResultCode) : (s.abortPass code).scnt = s.scnt := rfl
@[simp] theorem State.abortPass_i (s : State) (code : ResultCode) : (s.abortPass code).i = s.i := rfl
@[simp] theorem State.abortPass_btype (s : State) (code : ResultCode) : (s.abortPass code).btype = s.btype := rfl
@[simp] theorem State.abortPass_tScan (s : State) (code : ResultCode) : (s.abortPass code).tScan = s.tScan := rfl
@[simp] theorem State.abortPass_nrec (s : State) (code : ResultCode) : (s.abortPass code).nrec = s.nrec := rfl
@[simp] theorem State.abortPass_nacc (s : State) (code : ResultCode) : (s.abortPass code).nacc = s.nacc := rfl
@[simp] theorem State.abortPass_fCk (s : State) (code : ResultCode) : (s.abortPass code).fCk = s.fCk := rfl
@[simp] theorem State.abortPass_fSig (s : State) (code : ResultCode) : (s.abortPass code).fSig = s.fSig := rfl
@[simp] theorem State.abortPass_fX (s : State) (code : ResultCode) : (s.abortPass code).fX = s.fX := rfl
@[simp] theorem State.abortPass_fY (s : State) (code : ResultCode) : (s.abortPass code).fY = s.fY := rfl
@[simp] theorem State.abortPass_fW (s : State) (code : ResultCode) : (s.abortPass code).fW = s.fW := rfl
@[simp] theorem State.abortPass_fH (s : State) (code : ResultCode) : (s.abortPass code).fH = s.fH := rfl
@[simp] theorem State.abortPass_fAng (s : State) (code : ResultCode) : (s.abortPass code).fAng = s.fAng := rfl
@[simp] theorem State.abortPass_slots (s : State) (code : ResultCode) : (s.abortPass code).slots = s.slots := rfl
@[simp] theorem State.abortPass_status (s : State) (code : ResultCode) : (s.abortPass code).status = statusWord code true s.tScan := rfl
@[simp] theorem State.abortPass_lastRecords (s : State) (code : ResultCode) : (s.abortPass code).lastRecords = s.nrec := rfl
@[simp] theorem State.abortPass_lastAccepted (s : State) (code : ResultCode) : (s.abortPass code).lastAccepted = s.nacc := rfl
@[simp] theorem State.abortPass_lastScanWords (s : State) (code : ResultCode) : (s.abortPass code).lastScanWords = s.scnt := rfl
@[simp] theorem State.abortPass_oosCount (s : State) (code : ResultCode) : (s.abortPass code).oosCount = s.oosCount := rfl
@[simp] theorem State.abortPass_cksumFaultCount (s : State) (code : ResultCode) : (s.abortPass code).cksumFaultCount = s.cksumFaultCount := rfl
@[simp] theorem State.abortPass_lastFaultSig (s : State) (code : ResultCode) : (s.abortPass code).lastFaultSig = s.lastFaultSig := rfl
@[simp] theorem State.abortPass_events (s : State) (code : ResultCode) : (s.abortPass code).events = s.events := rfl
@[simp] theorem State.abortPass_response (s : State) (code : ResultCode) : (s.abortPass code).response = s.passResponse code := rfl
@[simp] theorem State.abortPass_outstanding (s : State) (code : ResultCode) : (s.abortPass code).outstanding = s.outstanding := rfl
@[simp] theorem State.abortPass_abandoned (s : State) (code : ResultCode) : (s.abortPass code).abandoned = s.abandoned := rfl
@[simp] theorem State.abortPass_commands (s : State) (code : ResultCode) : (s.abortPass code).commands = s.commands := rfl
@[simp] theorem State.abortPass_transport (s : State) (code : ResultCode) : (s.abortPass code).transport = s.transport := rfl
@[simp] theorem State.abortPass_alignment (s : State) (code : ResultCode) : (s.abortPass code).alignment = s.alignment := rfl
@[simp] theorem State.abortPass_hostReady (s : State) (code : ResultCode) : (s.abortPass code).hostReady = s.hostReady := rfl
@[simp] theorem State.abortPass_delivered (s : State) (code : ResultCode) : (s.abortPass code).delivered = s.delivered := rfl
@[simp] theorem State.abortPass_schedule (s : State) (code : ResultCode) : (s.abortPass code).schedule = s.schedule := rfl

/-! ### `State.takeScanWord` -/

@[simp] theorem State.takeScanWord_config (s : State) (v : U16) : (s.takeScanWord v).config = s.config := rfl
@[simp] theorem State.takeScanWord_phase (s : State) (v : U16) : (s.takeScanWord v).phase = s.phase := rfl
@[simp] theorem State.takeScanWord_k (s : State) (v : U16) : (s.takeScanWord v).k = s.k := rfl
@[simp] theorem State.takeScanWord_cmdOp (s : State) (v : U16) : (s.takeScanWord v).cmdOp = s.cmdOp := rfl
@[simp] theorem State.takeScanWord_cmdArg (s : State) (v : U16) : (s.takeScanWord v).cmdArg = s.cmdArg := rfl
@[simp] theorem State.takeScanWord_prev (s : State) (v : U16) : (s.takeScanWord v).prev = s.prev := rfl
@[simp] theorem State.takeScanWord_cur (s : State) (v : U16) : (s.takeScanWord v).cur = v := rfl
@[simp] theorem State.takeScanWord_scnt (s : State) (v : U16) : (s.takeScanWord v).scnt = s.scnt + 1#16 := rfl
@[simp] theorem State.takeScanWord_i (s : State) (v : U16) : (s.takeScanWord v).i = s.i := rfl
@[simp] theorem State.takeScanWord_btype (s : State) (v : U16) : (s.takeScanWord v).btype = s.btype := rfl
@[simp] theorem State.takeScanWord_tScan (s : State) (v : U16) : (s.takeScanWord v).tScan = s.tScan := rfl
@[simp] theorem State.takeScanWord_nrec (s : State) (v : U16) : (s.takeScanWord v).nrec = s.nrec := rfl
@[simp] theorem State.takeScanWord_nacc (s : State) (v : U16) : (s.takeScanWord v).nacc = s.nacc := rfl
@[simp] theorem State.takeScanWord_fCk (s : State) (v : U16) : (s.takeScanWord v).fCk = s.fCk := rfl
@[simp] theorem State.takeScanWord_fSig (s : State) (v : U16) : (s.takeScanWord v).fSig = s.fSig := rfl
@[simp] theorem State.takeScanWord_fX (s : State) (v : U16) : (s.takeScanWord v).fX = s.fX := rfl
@[simp] theorem State.takeScanWord_fY (s : State) (v : U16) : (s.takeScanWord v).fY = s.fY := rfl
@[simp] theorem State.takeScanWord_fW (s : State) (v : U16) : (s.takeScanWord v).fW = s.fW := rfl
@[simp] theorem State.takeScanWord_fH (s : State) (v : U16) : (s.takeScanWord v).fH = s.fH := rfl
@[simp] theorem State.takeScanWord_fAng (s : State) (v : U16) : (s.takeScanWord v).fAng = s.fAng := rfl
@[simp] theorem State.takeScanWord_slots (s : State) (v : U16) : (s.takeScanWord v).slots = s.slots := rfl
@[simp] theorem State.takeScanWord_status (s : State) (v : U16) : (s.takeScanWord v).status = s.status := rfl
@[simp] theorem State.takeScanWord_lastRecords (s : State) (v : U16) : (s.takeScanWord v).lastRecords = s.lastRecords := rfl
@[simp] theorem State.takeScanWord_lastAccepted (s : State) (v : U16) : (s.takeScanWord v).lastAccepted = s.lastAccepted := rfl
@[simp] theorem State.takeScanWord_lastScanWords (s : State) (v : U16) : (s.takeScanWord v).lastScanWords = s.lastScanWords := rfl
@[simp] theorem State.takeScanWord_oosCount (s : State) (v : U16) : (s.takeScanWord v).oosCount = s.oosCount := rfl
@[simp] theorem State.takeScanWord_cksumFaultCount (s : State) (v : U16) : (s.takeScanWord v).cksumFaultCount = s.cksumFaultCount := rfl
@[simp] theorem State.takeScanWord_lastFaultSig (s : State) (v : U16) : (s.takeScanWord v).lastFaultSig = s.lastFaultSig := rfl
@[simp] theorem State.takeScanWord_events (s : State) (v : U16) : (s.takeScanWord v).events = s.events := rfl
@[simp] theorem State.takeScanWord_response (s : State) (v : U16) : (s.takeScanWord v).response = s.response := rfl
@[simp] theorem State.takeScanWord_outstanding (s : State) (v : U16) : (s.takeScanWord v).outstanding = s.outstanding := rfl
@[simp] theorem State.takeScanWord_abandoned (s : State) (v : U16) : (s.takeScanWord v).abandoned = s.abandoned := rfl
@[simp] theorem State.takeScanWord_commands (s : State) (v : U16) : (s.takeScanWord v).commands = s.commands := rfl
@[simp] theorem State.takeScanWord_transport (s : State) (v : U16) : (s.takeScanWord v).transport = s.transport := rfl
@[simp] theorem State.takeScanWord_alignment (s : State) (v : U16) : (s.takeScanWord v).alignment = s.alignment := rfl
@[simp] theorem State.takeScanWord_hostReady (s : State) (v : U16) : (s.takeScanWord v).hostReady = s.hostReady := rfl
@[simp] theorem State.takeScanWord_delivered (s : State) (v : U16) : (s.takeScanWord v).delivered = s.delivered := rfl
@[simp] theorem State.takeScanWord_schedule (s : State) (v : U16) : (s.takeScanWord v).schedule = s.schedule := rfl

/-! ### `State.shift` -/

@[simp] theorem State.shift_config (s : State) : (s.shift).config = s.config := rfl
@[simp] theorem State.shift_phase (s : State) : (s.shift).phase = .scanWord := rfl
@[simp] theorem State.shift_k (s : State) : (s.shift).k = s.k := rfl
@[simp] theorem State.shift_cmdOp (s : State) : (s.shift).cmdOp = s.cmdOp := rfl
@[simp] theorem State.shift_cmdArg (s : State) : (s.shift).cmdArg = s.cmdArg := rfl
@[simp] theorem State.shift_prev (s : State) : (s.shift).prev = s.cur := rfl
@[simp] theorem State.shift_cur (s : State) : (s.shift).cur = s.cur := rfl
@[simp] theorem State.shift_scnt (s : State) : (s.shift).scnt = s.scnt := rfl
@[simp] theorem State.shift_i (s : State) : (s.shift).i = s.i := rfl
@[simp] theorem State.shift_btype (s : State) : (s.shift).btype = s.btype := rfl
@[simp] theorem State.shift_tScan (s : State) : (s.shift).tScan = s.tScan := rfl
@[simp] theorem State.shift_nrec (s : State) : (s.shift).nrec = s.nrec := rfl
@[simp] theorem State.shift_nacc (s : State) : (s.shift).nacc = s.nacc := rfl
@[simp] theorem State.shift_fCk (s : State) : (s.shift).fCk = s.fCk := rfl
@[simp] theorem State.shift_fSig (s : State) : (s.shift).fSig = s.fSig := rfl
@[simp] theorem State.shift_fX (s : State) : (s.shift).fX = s.fX := rfl
@[simp] theorem State.shift_fY (s : State) : (s.shift).fY = s.fY := rfl
@[simp] theorem State.shift_fW (s : State) : (s.shift).fW = s.fW := rfl
@[simp] theorem State.shift_fH (s : State) : (s.shift).fH = s.fH := rfl
@[simp] theorem State.shift_fAng (s : State) : (s.shift).fAng = s.fAng := rfl
@[simp] theorem State.shift_slots (s : State) : (s.shift).slots = s.slots := rfl
@[simp] theorem State.shift_status (s : State) : (s.shift).status = s.status := rfl
@[simp] theorem State.shift_lastRecords (s : State) : (s.shift).lastRecords = s.lastRecords := rfl
@[simp] theorem State.shift_lastAccepted (s : State) : (s.shift).lastAccepted = s.lastAccepted := rfl
@[simp] theorem State.shift_lastScanWords (s : State) : (s.shift).lastScanWords = s.lastScanWords := rfl
@[simp] theorem State.shift_oosCount (s : State) : (s.shift).oosCount = s.oosCount := rfl
@[simp] theorem State.shift_cksumFaultCount (s : State) : (s.shift).cksumFaultCount = s.cksumFaultCount := rfl
@[simp] theorem State.shift_lastFaultSig (s : State) : (s.shift).lastFaultSig = s.lastFaultSig := rfl
@[simp] theorem State.shift_events (s : State) : (s.shift).events = s.events := rfl
@[simp] theorem State.shift_response (s : State) : (s.shift).response = s.response := rfl
@[simp] theorem State.shift_outstanding (s : State) : (s.shift).outstanding = s.outstanding := rfl
@[simp] theorem State.shift_abandoned (s : State) : (s.shift).abandoned = s.abandoned := rfl
@[simp] theorem State.shift_commands (s : State) : (s.shift).commands = s.commands := rfl
@[simp] theorem State.shift_transport (s : State) : (s.shift).transport = s.transport := rfl
@[simp] theorem State.shift_alignment (s : State) : (s.shift).alignment = s.alignment := rfl
@[simp] theorem State.shift_hostReady (s : State) : (s.shift).hostReady = s.hostReady := rfl
@[simp] theorem State.shift_delivered (s : State) : (s.shift).delivered = s.delivered := rfl
@[simp] theorem State.shift_schedule (s : State) : (s.shift).schedule = s.schedule := rfl

/-! ### `State.beginBody` -/

@[simp] theorem State.beginBody_config (s : State) (t : BlockType) : (s.beginBody t).config = s.config := rfl
@[simp] theorem State.beginBody_phase (s : State) (t : BlockType) : (s.beginBody t).phase = .recField := rfl
@[simp] theorem State.beginBody_k (s : State) (t : BlockType) : (s.beginBody t).k = .checksum := rfl
@[simp] theorem State.beginBody_cmdOp (s : State) (t : BlockType) : (s.beginBody t).cmdOp = s.cmdOp := rfl
@[simp] theorem State.beginBody_cmdArg (s : State) (t : BlockType) : (s.beginBody t).cmdArg = s.cmdArg := rfl
@[simp] theorem State.beginBody_prev (s : State) (t : BlockType) : (s.beginBody t).prev = s.prev := rfl
@[simp] theorem State.beginBody_cur (s : State) (t : BlockType) : (s.beginBody t).cur = s.cur := rfl
@[simp] theorem State.beginBody_scnt (s : State) (t : BlockType) : (s.beginBody t).scnt = s.scnt := rfl
@[simp] theorem State.beginBody_i (s : State) (t : BlockType) : (s.beginBody t).i = s.i := rfl
@[simp] theorem State.beginBody_btype (s : State) (t : BlockType) : (s.beginBody t).btype = t := rfl
@[simp] theorem State.beginBody_tScan (s : State) (t : BlockType) : (s.beginBody t).tScan = s.tScan := rfl
@[simp] theorem State.beginBody_nrec (s : State) (t : BlockType) : (s.beginBody t).nrec = s.nrec := rfl
@[simp] theorem State.beginBody_nacc (s : State) (t : BlockType) : (s.beginBody t).nacc = s.nacc := rfl
@[simp] theorem State.beginBody_fCk (s : State) (t : BlockType) : (s.beginBody t).fCk = s.fCk := rfl
@[simp] theorem State.beginBody_fSig (s : State) (t : BlockType) : (s.beginBody t).fSig = s.fSig := rfl
@[simp] theorem State.beginBody_fX (s : State) (t : BlockType) : (s.beginBody t).fX = s.fX := rfl
@[simp] theorem State.beginBody_fY (s : State) (t : BlockType) : (s.beginBody t).fY = s.fY := rfl
@[simp] theorem State.beginBody_fW (s : State) (t : BlockType) : (s.beginBody t).fW = s.fW := rfl
@[simp] theorem State.beginBody_fH (s : State) (t : BlockType) : (s.beginBody t).fH = s.fH := rfl
@[simp] theorem State.beginBody_fAng (s : State) (t : BlockType) : (s.beginBody t).fAng = s.fAng := rfl
@[simp] theorem State.beginBody_slots (s : State) (t : BlockType) : (s.beginBody t).slots = s.slots := rfl
@[simp] theorem State.beginBody_status (s : State) (t : BlockType) : (s.beginBody t).status = s.status := rfl
@[simp] theorem State.beginBody_lastRecords (s : State) (t : BlockType) : (s.beginBody t).lastRecords = s.lastRecords := rfl
@[simp] theorem State.beginBody_lastAccepted (s : State) (t : BlockType) : (s.beginBody t).lastAccepted = s.lastAccepted := rfl
@[simp] theorem State.beginBody_lastScanWords (s : State) (t : BlockType) : (s.beginBody t).lastScanWords = s.lastScanWords := rfl
@[simp] theorem State.beginBody_oosCount (s : State) (t : BlockType) : (s.beginBody t).oosCount = s.oosCount := rfl
@[simp] theorem State.beginBody_cksumFaultCount (s : State) (t : BlockType) : (s.beginBody t).cksumFaultCount = s.cksumFaultCount := rfl
@[simp] theorem State.beginBody_lastFaultSig (s : State) (t : BlockType) : (s.beginBody t).lastFaultSig = s.lastFaultSig := rfl
@[simp] theorem State.beginBody_events (s : State) (t : BlockType) : (s.beginBody t).events = s.events := rfl
@[simp] theorem State.beginBody_response (s : State) (t : BlockType) : (s.beginBody t).response = s.response := rfl
@[simp] theorem State.beginBody_outstanding (s : State) (t : BlockType) : (s.beginBody t).outstanding = s.outstanding := rfl
@[simp] theorem State.beginBody_abandoned (s : State) (t : BlockType) : (s.beginBody t).abandoned = s.abandoned := rfl
@[simp] theorem State.beginBody_commands (s : State) (t : BlockType) : (s.beginBody t).commands = s.commands := rfl
@[simp] theorem State.beginBody_transport (s : State) (t : BlockType) : (s.beginBody t).transport = s.transport := rfl
@[simp] theorem State.beginBody_alignment (s : State) (t : BlockType) : (s.beginBody t).alignment = s.alignment := rfl
@[simp] theorem State.beginBody_hostReady (s : State) (t : BlockType) : (s.beginBody t).hostReady = s.hostReady := rfl
@[simp] theorem State.beginBody_delivered (s : State) (t : BlockType) : (s.beginBody t).delivered = s.delivered := rfl
@[simp] theorem State.beginBody_schedule (s : State) (t : BlockType) : (s.beginBody t).schedule = s.schedule := rfl

/-! ### `State.synced` -/

@[simp] theorem State.synced_config (s : State) (t : BlockType) : (s.synced t).config = s.config := rfl
@[simp] theorem State.synced_phase (s : State) (t : BlockType) : (s.synced t).phase = .recField := rfl
@[simp] theorem State.synced_k (s : State) (t : BlockType) : (s.synced t).k = .checksum := rfl
@[simp] theorem State.synced_cmdOp (s : State) (t : BlockType) : (s.synced t).cmdOp = s.cmdOp := rfl
@[simp] theorem State.synced_cmdArg (s : State) (t : BlockType) : (s.synced t).cmdArg = s.cmdArg := rfl
@[simp] theorem State.synced_prev (s : State) (t : BlockType) : (s.synced t).prev = s.prev := rfl
@[simp] theorem State.synced_cur (s : State) (t : BlockType) : (s.synced t).cur = s.cur := rfl
@[simp] theorem State.synced_scnt (s : State) (t : BlockType) : (s.synced t).scnt = s.scnt := rfl
@[simp] theorem State.synced_i (s : State) (t : BlockType) : (s.synced t).i = 0#16 := rfl
@[simp] theorem State.synced_btype (s : State) (t : BlockType) : (s.synced t).btype = t := rfl
@[simp] theorem State.synced_tScan (s : State) (t : BlockType) : (s.synced t).tScan = t := rfl
@[simp] theorem State.synced_nrec (s : State) (t : BlockType) : (s.synced t).nrec = s.nrec := rfl
@[simp] theorem State.synced_nacc (s : State) (t : BlockType) : (s.synced t).nacc = s.nacc := rfl
@[simp] theorem State.synced_fCk (s : State) (t : BlockType) : (s.synced t).fCk = s.fCk := rfl
@[simp] theorem State.synced_fSig (s : State) (t : BlockType) : (s.synced t).fSig = s.fSig := rfl
@[simp] theorem State.synced_fX (s : State) (t : BlockType) : (s.synced t).fX = s.fX := rfl
@[simp] theorem State.synced_fY (s : State) (t : BlockType) : (s.synced t).fY = s.fY := rfl
@[simp] theorem State.synced_fW (s : State) (t : BlockType) : (s.synced t).fW = s.fW := rfl
@[simp] theorem State.synced_fH (s : State) (t : BlockType) : (s.synced t).fH = s.fH := rfl
@[simp] theorem State.synced_fAng (s : State) (t : BlockType) : (s.synced t).fAng = s.fAng := rfl
@[simp] theorem State.synced_slots (s : State) (t : BlockType) : (s.synced t).slots = s.slots := rfl
@[simp] theorem State.synced_status (s : State) (t : BlockType) : (s.synced t).status = s.status := rfl
@[simp] theorem State.synced_lastRecords (s : State) (t : BlockType) : (s.synced t).lastRecords = s.lastRecords := rfl
@[simp] theorem State.synced_lastAccepted (s : State) (t : BlockType) : (s.synced t).lastAccepted = s.lastAccepted := rfl
@[simp] theorem State.synced_lastScanWords (s : State) (t : BlockType) : (s.synced t).lastScanWords = s.lastScanWords := rfl
@[simp] theorem State.synced_oosCount (s : State) (t : BlockType) : (s.synced t).oosCount = s.oosCount := rfl
@[simp] theorem State.synced_cksumFaultCount (s : State) (t : BlockType) : (s.synced t).cksumFaultCount = s.cksumFaultCount := rfl
@[simp] theorem State.synced_lastFaultSig (s : State) (t : BlockType) : (s.synced t).lastFaultSig = s.lastFaultSig := rfl
@[simp] theorem State.synced_events (s : State) (t : BlockType) : (s.synced t).events = s.events := rfl
@[simp] theorem State.synced_response (s : State) (t : BlockType) : (s.synced t).response = s.response := rfl
@[simp] theorem State.synced_outstanding (s : State) (t : BlockType) : (s.synced t).outstanding = s.outstanding := rfl
@[simp] theorem State.synced_abandoned (s : State) (t : BlockType) : (s.synced t).abandoned = s.abandoned := rfl
@[simp] theorem State.synced_commands (s : State) (t : BlockType) : (s.synced t).commands = s.commands := rfl
@[simp] theorem State.synced_transport (s : State) (t : BlockType) : (s.synced t).transport = s.transport := rfl
@[simp] theorem State.synced_alignment (s : State) (t : BlockType) : (s.synced t).alignment = s.alignment := rfl
@[simp] theorem State.synced_hostReady (s : State) (t : BlockType) : (s.synced t).hostReady = s.hostReady := rfl
@[simp] theorem State.synced_delivered (s : State) (t : BlockType) : (s.synced t).delivered = s.delivered := rfl
@[simp] theorem State.synced_schedule (s : State) (t : BlockType) : (s.synced t).schedule = s.schedule := rfl

/-! ### `State.commit` -/

@[simp] theorem State.commit_config (s : State) : (s.commit).config = s.config := rfl
@[simp] theorem State.commit_phase (s : State) : (s.commit).phase = s.phase := rfl
@[simp] theorem State.commit_k (s : State) : (s.commit).k = s.k := rfl
@[simp] theorem State.commit_cmdOp (s : State) : (s.commit).cmdOp = s.cmdOp := rfl
@[simp] theorem State.commit_cmdArg (s : State) : (s.commit).cmdArg = s.cmdArg := rfl
@[simp] theorem State.commit_prev (s : State) : (s.commit).prev = s.prev := rfl
@[simp] theorem State.commit_cur (s : State) : (s.commit).cur = s.cur := rfl
@[simp] theorem State.commit_scnt (s : State) : (s.commit).scnt = s.scnt := rfl
@[simp] theorem State.commit_i (s : State) : (s.commit).i = s.i := rfl
@[simp] theorem State.commit_btype (s : State) : (s.commit).btype = s.btype := rfl
@[simp] theorem State.commit_tScan (s : State) : (s.commit).tScan = s.tScan := rfl
@[simp] theorem State.commit_nrec (s : State) : (s.commit).nrec = s.nrec + 1#16 := rfl
@[simp] theorem State.commit_nacc (s : State) : (s.commit).nacc = s.nacc + 1#16 := rfl
@[simp] theorem State.commit_fCk (s : State) : (s.commit).fCk = s.fCk := rfl
@[simp] theorem State.commit_fSig (s : State) : (s.commit).fSig = s.fSig := rfl
@[simp] theorem State.commit_fX (s : State) : (s.commit).fX = s.fX := rfl
@[simp] theorem State.commit_fY (s : State) : (s.commit).fY = s.fY := rfl
@[simp] theorem State.commit_fW (s : State) : (s.commit).fW = s.fW := rfl
@[simp] theorem State.commit_fH (s : State) : (s.commit).fH = s.fH := rfl
@[simp] theorem State.commit_fAng (s : State) : (s.commit).fAng = s.fAng := rfl
@[simp] theorem State.commit_slots (s : State) : (s.commit).slots = s.slots.set s.i.toNat (.present s.detection) := rfl
@[simp] theorem State.commit_status (s : State) : (s.commit).status = s.status := rfl
@[simp] theorem State.commit_lastRecords (s : State) : (s.commit).lastRecords = s.lastRecords := rfl
@[simp] theorem State.commit_lastAccepted (s : State) : (s.commit).lastAccepted = s.lastAccepted := rfl
@[simp] theorem State.commit_lastScanWords (s : State) : (s.commit).lastScanWords = s.lastScanWords := rfl
@[simp] theorem State.commit_oosCount (s : State) : (s.commit).oosCount = s.oosCount := rfl
@[simp] theorem State.commit_cksumFaultCount (s : State) : (s.commit).cksumFaultCount = s.cksumFaultCount := rfl
@[simp] theorem State.commit_lastFaultSig (s : State) : (s.commit).lastFaultSig = s.lastFaultSig := rfl
@[simp] theorem State.commit_events (s : State) : (s.commit).events = s.events := rfl
@[simp] theorem State.commit_response (s : State) : (s.commit).response = s.response := rfl
@[simp] theorem State.commit_outstanding (s : State) : (s.commit).outstanding = s.outstanding := rfl
@[simp] theorem State.commit_abandoned (s : State) : (s.commit).abandoned = s.abandoned := rfl
@[simp] theorem State.commit_commands (s : State) : (s.commit).commands = s.commands := rfl
@[simp] theorem State.commit_transport (s : State) : (s.commit).transport = s.transport := rfl
@[simp] theorem State.commit_alignment (s : State) : (s.commit).alignment = s.alignment := rfl
@[simp] theorem State.commit_hostReady (s : State) : (s.commit).hostReady = s.hostReady := rfl
@[simp] theorem State.commit_delivered (s : State) : (s.commit).delivered = s.delivered := rfl
@[simp] theorem State.commit_schedule (s : State) : (s.commit).schedule = s.schedule := rfl

/-! ### `State.reject` -/

@[simp] theorem State.reject_config (s : State) : (s.reject).config = s.config := rfl
@[simp] theorem State.reject_phase (s : State) : (s.reject).phase = s.phase := rfl
@[simp] theorem State.reject_k (s : State) : (s.reject).k = s.k := rfl
@[simp] theorem State.reject_cmdOp (s : State) : (s.reject).cmdOp = s.cmdOp := rfl
@[simp] theorem State.reject_cmdArg (s : State) : (s.reject).cmdArg = s.cmdArg := rfl
@[simp] theorem State.reject_prev (s : State) : (s.reject).prev = s.prev := rfl
@[simp] theorem State.reject_cur (s : State) : (s.reject).cur = s.cur := rfl
@[simp] theorem State.reject_scnt (s : State) : (s.reject).scnt = s.scnt := rfl
@[simp] theorem State.reject_i (s : State) : (s.reject).i = s.i := rfl
@[simp] theorem State.reject_btype (s : State) : (s.reject).btype = s.btype := rfl
@[simp] theorem State.reject_tScan (s : State) : (s.reject).tScan = s.tScan := rfl
@[simp] theorem State.reject_nrec (s : State) : (s.reject).nrec = s.nrec + 1#16 := rfl
@[simp] theorem State.reject_nacc (s : State) : (s.reject).nacc = s.nacc := rfl
@[simp] theorem State.reject_fCk (s : State) : (s.reject).fCk = s.fCk := rfl
@[simp] theorem State.reject_fSig (s : State) : (s.reject).fSig = s.fSig := rfl
@[simp] theorem State.reject_fX (s : State) : (s.reject).fX = s.fX := rfl
@[simp] theorem State.reject_fY (s : State) : (s.reject).fY = s.fY := rfl
@[simp] theorem State.reject_fW (s : State) : (s.reject).fW = s.fW := rfl
@[simp] theorem State.reject_fH (s : State) : (s.reject).fH = s.fH := rfl
@[simp] theorem State.reject_fAng (s : State) : (s.reject).fAng = s.fAng := rfl
@[simp] theorem State.reject_slots (s : State) : (s.reject).slots = s.slots := rfl
@[simp] theorem State.reject_status (s : State) : (s.reject).status = s.status := rfl
@[simp] theorem State.reject_lastRecords (s : State) : (s.reject).lastRecords = s.lastRecords := rfl
@[simp] theorem State.reject_lastAccepted (s : State) : (s.reject).lastAccepted = s.lastAccepted := rfl
@[simp] theorem State.reject_lastScanWords (s : State) : (s.reject).lastScanWords = s.lastScanWords := rfl
@[simp] theorem State.reject_oosCount (s : State) : (s.reject).oosCount = s.oosCount := rfl
@[simp] theorem State.reject_cksumFaultCount (s : State) : (s.reject).cksumFaultCount = s.cksumFaultCount + 1#16 := rfl
@[simp] theorem State.reject_lastFaultSig (s : State) : (s.reject).lastFaultSig = s.fSig := rfl
@[simp] theorem State.reject_events (s : State) : (s.reject).events = s.events ++ [.checksumFault s.i s.fSig] := rfl
@[simp] theorem State.reject_response (s : State) : (s.reject).response = s.response := rfl
@[simp] theorem State.reject_outstanding (s : State) : (s.reject).outstanding = s.outstanding := rfl
@[simp] theorem State.reject_abandoned (s : State) : (s.reject).abandoned = s.abandoned := rfl
@[simp] theorem State.reject_commands (s : State) : (s.reject).commands = s.commands := rfl
@[simp] theorem State.reject_transport (s : State) : (s.reject).transport = s.transport := rfl
@[simp] theorem State.reject_alignment (s : State) : (s.reject).alignment = s.alignment := rfl
@[simp] theorem State.reject_hostReady (s : State) : (s.reject).hostReady = s.hostReady := rfl
@[simp] theorem State.reject_delivered (s : State) : (s.reject).delivered = s.delivered := rfl
@[simp] theorem State.reject_schedule (s : State) : (s.reject).schedule = s.schedule := rfl

/-! ### `State.gotResponse` -/

@[simp] theorem State.gotResponse_config (s : State) (t : Transport) : (s.gotResponse t).config = s.config := rfl
@[simp] theorem State.gotResponse_phase (s : State) (t : Transport) : (s.gotResponse t).phase = s.phase := rfl
@[simp] theorem State.gotResponse_k (s : State) (t : Transport) : (s.gotResponse t).k = s.k := rfl
@[simp] theorem State.gotResponse_cmdOp (s : State) (t : Transport) : (s.gotResponse t).cmdOp = s.cmdOp := rfl
@[simp] theorem State.gotResponse_cmdArg (s : State) (t : Transport) : (s.gotResponse t).cmdArg = s.cmdArg := rfl
@[simp] theorem State.gotResponse_prev (s : State) (t : Transport) : (s.gotResponse t).prev = s.prev := rfl
@[simp] theorem State.gotResponse_cur (s : State) (t : Transport) : (s.gotResponse t).cur = s.cur := rfl
@[simp] theorem State.gotResponse_scnt (s : State) (t : Transport) : (s.gotResponse t).scnt = s.scnt := rfl
@[simp] theorem State.gotResponse_i (s : State) (t : Transport) : (s.gotResponse t).i = s.i := rfl
@[simp] theorem State.gotResponse_btype (s : State) (t : Transport) : (s.gotResponse t).btype = s.btype := rfl
@[simp] theorem State.gotResponse_tScan (s : State) (t : Transport) : (s.gotResponse t).tScan = s.tScan := rfl
@[simp] theorem State.gotResponse_nrec (s : State) (t : Transport) : (s.gotResponse t).nrec = s.nrec := rfl
@[simp] theorem State.gotResponse_nacc (s : State) (t : Transport) : (s.gotResponse t).nacc = s.nacc := rfl
@[simp] theorem State.gotResponse_fCk (s : State) (t : Transport) : (s.gotResponse t).fCk = s.fCk := rfl
@[simp] theorem State.gotResponse_fSig (s : State) (t : Transport) : (s.gotResponse t).fSig = s.fSig := rfl
@[simp] theorem State.gotResponse_fX (s : State) (t : Transport) : (s.gotResponse t).fX = s.fX := rfl
@[simp] theorem State.gotResponse_fY (s : State) (t : Transport) : (s.gotResponse t).fY = s.fY := rfl
@[simp] theorem State.gotResponse_fW (s : State) (t : Transport) : (s.gotResponse t).fW = s.fW := rfl
@[simp] theorem State.gotResponse_fH (s : State) (t : Transport) : (s.gotResponse t).fH = s.fH := rfl
@[simp] theorem State.gotResponse_fAng (s : State) (t : Transport) : (s.gotResponse t).fAng = s.fAng := rfl
@[simp] theorem State.gotResponse_slots (s : State) (t : Transport) : (s.gotResponse t).slots = s.slots := rfl
@[simp] theorem State.gotResponse_status (s : State) (t : Transport) : (s.gotResponse t).status = s.status := rfl
@[simp] theorem State.gotResponse_lastRecords (s : State) (t : Transport) : (s.gotResponse t).lastRecords = s.lastRecords := rfl
@[simp] theorem State.gotResponse_lastAccepted (s : State) (t : Transport) : (s.gotResponse t).lastAccepted = s.lastAccepted := rfl
@[simp] theorem State.gotResponse_lastScanWords (s : State) (t : Transport) : (s.gotResponse t).lastScanWords = s.lastScanWords := rfl
@[simp] theorem State.gotResponse_oosCount (s : State) (t : Transport) : (s.gotResponse t).oosCount = s.oosCount := rfl
@[simp] theorem State.gotResponse_cksumFaultCount (s : State) (t : Transport) : (s.gotResponse t).cksumFaultCount = s.cksumFaultCount := rfl
@[simp] theorem State.gotResponse_lastFaultSig (s : State) (t : Transport) : (s.gotResponse t).lastFaultSig = s.lastFaultSig := rfl
@[simp] theorem State.gotResponse_events (s : State) (t : Transport) : (s.gotResponse t).events = s.events := rfl
@[simp] theorem State.gotResponse_response (s : State) (t : Transport) : (s.gotResponse t).response = s.response := rfl
@[simp] theorem State.gotResponse_outstanding (s : State) (t : Transport) : (s.gotResponse t).outstanding = none := rfl
@[simp] theorem State.gotResponse_abandoned (s : State) (t : Transport) : (s.gotResponse t).abandoned = s.abandoned := rfl
@[simp] theorem State.gotResponse_commands (s : State) (t : Transport) : (s.gotResponse t).commands = s.commands := rfl
@[simp] theorem State.gotResponse_transport (s : State) (t : Transport) : (s.gotResponse t).transport = t := rfl
@[simp] theorem State.gotResponse_alignment (s : State) (t : Transport) : (s.gotResponse t).alignment = s.alignment := rfl
@[simp] theorem State.gotResponse_hostReady (s : State) (t : Transport) : (s.gotResponse t).hostReady = s.hostReady := rfl
@[simp] theorem State.gotResponse_delivered (s : State) (t : Transport) : (s.gotResponse t).delivered = s.delivered := rfl
@[simp] theorem State.gotResponse_schedule (s : State) (t : Transport) : (s.gotResponse t).schedule = s.schedule := rfl

/-! ### `State.realign` -/

@[simp] theorem State.realign_config (s : State) (w : Width) (data : Bool) : (s.realign w data).config = s.config := rfl
@[simp] theorem State.realign_phase (s : State) (w : Width) (data : Bool) : (s.realign w data).phase = s.phase := rfl
@[simp] theorem State.realign_k (s : State) (w : Width) (data : Bool) : (s.realign w data).k = s.k := rfl
@[simp] theorem State.realign_cmdOp (s : State) (w : Width) (data : Bool) : (s.realign w data).cmdOp = s.cmdOp := rfl
@[simp] theorem State.realign_cmdArg (s : State) (w : Width) (data : Bool) : (s.realign w data).cmdArg = s.cmdArg := rfl
@[simp] theorem State.realign_prev (s : State) (w : Width) (data : Bool) : (s.realign w data).prev = s.prev := rfl
@[simp] theorem State.realign_cur (s : State) (w : Width) (data : Bool) : (s.realign w data).cur = s.cur := rfl
@[simp] theorem State.realign_scnt (s : State) (w : Width) (data : Bool) : (s.realign w data).scnt = s.scnt := rfl
@[simp] theorem State.realign_i (s : State) (w : Width) (data : Bool) : (s.realign w data).i = s.i := rfl
@[simp] theorem State.realign_btype (s : State) (w : Width) (data : Bool) : (s.realign w data).btype = s.btype := rfl
@[simp] theorem State.realign_tScan (s : State) (w : Width) (data : Bool) : (s.realign w data).tScan = s.tScan := rfl
@[simp] theorem State.realign_nrec (s : State) (w : Width) (data : Bool) : (s.realign w data).nrec = s.nrec := rfl
@[simp] theorem State.realign_nacc (s : State) (w : Width) (data : Bool) : (s.realign w data).nacc = s.nacc := rfl
@[simp] theorem State.realign_fCk (s : State) (w : Width) (data : Bool) : (s.realign w data).fCk = s.fCk := rfl
@[simp] theorem State.realign_fSig (s : State) (w : Width) (data : Bool) : (s.realign w data).fSig = s.fSig := rfl
@[simp] theorem State.realign_fX (s : State) (w : Width) (data : Bool) : (s.realign w data).fX = s.fX := rfl
@[simp] theorem State.realign_fY (s : State) (w : Width) (data : Bool) : (s.realign w data).fY = s.fY := rfl
@[simp] theorem State.realign_fW (s : State) (w : Width) (data : Bool) : (s.realign w data).fW = s.fW := rfl
@[simp] theorem State.realign_fH (s : State) (w : Width) (data : Bool) : (s.realign w data).fH = s.fH := rfl
@[simp] theorem State.realign_fAng (s : State) (w : Width) (data : Bool) : (s.realign w data).fAng = s.fAng := rfl
@[simp] theorem State.realign_slots (s : State) (w : Width) (data : Bool) : (s.realign w data).slots = s.slots := rfl
@[simp] theorem State.realign_status (s : State) (w : Width) (data : Bool) : (s.realign w data).status = s.status := rfl
@[simp] theorem State.realign_lastRecords (s : State) (w : Width) (data : Bool) : (s.realign w data).lastRecords = s.lastRecords := rfl
@[simp] theorem State.realign_lastAccepted (s : State) (w : Width) (data : Bool) : (s.realign w data).lastAccepted = s.lastAccepted := rfl
@[simp] theorem State.realign_lastScanWords (s : State) (w : Width) (data : Bool) : (s.realign w data).lastScanWords = s.lastScanWords := rfl
@[simp] theorem State.realign_oosCount (s : State) (w : Width) (data : Bool) : (s.realign w data).oosCount = s.oosCount := rfl
@[simp] theorem State.realign_cksumFaultCount (s : State) (w : Width) (data : Bool) : (s.realign w data).cksumFaultCount = s.cksumFaultCount := rfl
@[simp] theorem State.realign_lastFaultSig (s : State) (w : Width) (data : Bool) : (s.realign w data).lastFaultSig = s.lastFaultSig := rfl
@[simp] theorem State.realign_events (s : State) (w : Width) (data : Bool) : (s.realign w data).events = s.events := rfl
@[simp] theorem State.realign_response (s : State) (w : Width) (data : Bool) : (s.realign w data).response = s.response := rfl
@[simp] theorem State.realign_outstanding (s : State) (w : Width) (data : Bool) : (s.realign w data).outstanding = s.outstanding := rfl
@[simp] theorem State.realign_abandoned (s : State) (w : Width) (data : Bool) : (s.realign w data).abandoned = s.abandoned := rfl
@[simp] theorem State.realign_commands (s : State) (w : Width) (data : Bool) : (s.realign w data).commands = s.commands := rfl
@[simp] theorem State.realign_transport (s : State) (w : Width) (data : Bool) : (s.realign w data).transport = s.transport := rfl
@[simp] theorem State.realign_alignment (s : State) (w : Width) (data : Bool) : (s.realign w data).alignment = s.alignment.after w data := rfl
@[simp] theorem State.realign_hostReady (s : State) (w : Width) (data : Bool) : (s.realign w data).hostReady = s.hostReady := rfl
@[simp] theorem State.realign_delivered (s : State) (w : Width) (data : Bool) : (s.realign w data).delivered = s.delivered := rfl
@[simp] theorem State.realign_schedule (s : State) (w : Width) (data : Bool) : (s.realign w data).schedule = s.schedule := rfl

/-! ### `State.dropMove` -/

@[simp] theorem State.dropMove_config (s : State) : (s.dropMove).config = s.config := rfl
@[simp] theorem State.dropMove_phase (s : State) : (s.dropMove).phase = s.phase := rfl
@[simp] theorem State.dropMove_k (s : State) : (s.dropMove).k = s.k := rfl
@[simp] theorem State.dropMove_cmdOp (s : State) : (s.dropMove).cmdOp = s.cmdOp := rfl
@[simp] theorem State.dropMove_cmdArg (s : State) : (s.dropMove).cmdArg = s.cmdArg := rfl
@[simp] theorem State.dropMove_prev (s : State) : (s.dropMove).prev = s.prev := rfl
@[simp] theorem State.dropMove_cur (s : State) : (s.dropMove).cur = s.cur := rfl
@[simp] theorem State.dropMove_scnt (s : State) : (s.dropMove).scnt = s.scnt := rfl
@[simp] theorem State.dropMove_i (s : State) : (s.dropMove).i = s.i := rfl
@[simp] theorem State.dropMove_btype (s : State) : (s.dropMove).btype = s.btype := rfl
@[simp] theorem State.dropMove_tScan (s : State) : (s.dropMove).tScan = s.tScan := rfl
@[simp] theorem State.dropMove_nrec (s : State) : (s.dropMove).nrec = s.nrec := rfl
@[simp] theorem State.dropMove_nacc (s : State) : (s.dropMove).nacc = s.nacc := rfl
@[simp] theorem State.dropMove_fCk (s : State) : (s.dropMove).fCk = s.fCk := rfl
@[simp] theorem State.dropMove_fSig (s : State) : (s.dropMove).fSig = s.fSig := rfl
@[simp] theorem State.dropMove_fX (s : State) : (s.dropMove).fX = s.fX := rfl
@[simp] theorem State.dropMove_fY (s : State) : (s.dropMove).fY = s.fY := rfl
@[simp] theorem State.dropMove_fW (s : State) : (s.dropMove).fW = s.fW := rfl
@[simp] theorem State.dropMove_fH (s : State) : (s.dropMove).fH = s.fH := rfl
@[simp] theorem State.dropMove_fAng (s : State) : (s.dropMove).fAng = s.fAng := rfl
@[simp] theorem State.dropMove_slots (s : State) : (s.dropMove).slots = s.slots := rfl
@[simp] theorem State.dropMove_status (s : State) : (s.dropMove).status = s.status := rfl
@[simp] theorem State.dropMove_lastRecords (s : State) : (s.dropMove).lastRecords = s.lastRecords := rfl
@[simp] theorem State.dropMove_lastAccepted (s : State) : (s.dropMove).lastAccepted = s.lastAccepted := rfl
@[simp] theorem State.dropMove_lastScanWords (s : State) : (s.dropMove).lastScanWords = s.lastScanWords := rfl
@[simp] theorem State.dropMove_oosCount (s : State) : (s.dropMove).oosCount = s.oosCount := rfl
@[simp] theorem State.dropMove_cksumFaultCount (s : State) : (s.dropMove).cksumFaultCount = s.cksumFaultCount := rfl
@[simp] theorem State.dropMove_lastFaultSig (s : State) : (s.dropMove).lastFaultSig = s.lastFaultSig := rfl
@[simp] theorem State.dropMove_events (s : State) : (s.dropMove).events = s.events := rfl
@[simp] theorem State.dropMove_response (s : State) : (s.dropMove).response = s.response := rfl
@[simp] theorem State.dropMove_outstanding (s : State) : (s.dropMove).outstanding = s.outstanding := rfl
@[simp] theorem State.dropMove_abandoned (s : State) : (s.dropMove).abandoned = s.abandoned := rfl
@[simp] theorem State.dropMove_commands (s : State) : (s.dropMove).commands = s.commands := rfl
@[simp] theorem State.dropMove_transport (s : State) : (s.dropMove).transport = s.transport := rfl
@[simp] theorem State.dropMove_alignment (s : State) : (s.dropMove).alignment = s.alignment := rfl
@[simp] theorem State.dropMove_hostReady (s : State) : (s.dropMove).hostReady = s.hostReady := rfl
@[simp] theorem State.dropMove_delivered (s : State) : (s.dropMove).delivered = s.delivered := rfl
@[simp] theorem State.dropMove_schedule (s : State) : (s.dropMove).schedule = s.schedule.tail := rfl

/-! ### `State.acceptPass` -/

@[simp] theorem State.acceptPass_config (s : State) (i : Instr) : (s.acceptPass i).config = s.config := rfl
@[simp] theorem State.acceptPass_phase (s : State) (i : Instr) : (s.acceptPass i).phase = .scanWord := rfl
@[simp] theorem State.acceptPass_k (s : State) (i : Instr) : (s.acceptPass i).k = s.k := rfl
@[simp] theorem State.acceptPass_cmdOp (s : State) (i : Instr) : (s.acceptPass i).cmdOp = opcodeField (commandOf (encode i)) := rfl
@[simp] theorem State.acceptPass_cmdArg (s : State) (i : Instr) : (s.acceptPass i).cmdArg = argField (commandOf (encode i)) := rfl
@[simp] theorem State.acceptPass_prev (s : State) (i : Instr) : (s.acceptPass i).prev = sentinel := rfl
@[simp] theorem State.acceptPass_cur (s : State) (i : Instr) : (s.acceptPass i).cur = s.cur := rfl
@[simp] theorem State.acceptPass_scnt (s : State) (i : Instr) : (s.acceptPass i).scnt = 0#16 := rfl
@[simp] theorem State.acceptPass_i (s : State) (i : Instr) : (s.acceptPass i).i = s.i := rfl
@[simp] theorem State.acceptPass_btype (s : State) (i : Instr) : (s.acceptPass i).btype = s.btype := rfl
@[simp] theorem State.acceptPass_tScan (s : State) (i : Instr) : (s.acceptPass i).tScan = s.tScan := rfl
@[simp] theorem State.acceptPass_nrec (s : State) (i : Instr) : (s.acceptPass i).nrec = 0#16 := rfl
@[simp] theorem State.acceptPass_nacc (s : State) (i : Instr) : (s.acceptPass i).nacc = 0#16 := rfl
@[simp] theorem State.acceptPass_fCk (s : State) (i : Instr) : (s.acceptPass i).fCk = s.fCk := rfl
@[simp] theorem State.acceptPass_fSig (s : State) (i : Instr) : (s.acceptPass i).fSig = s.fSig := rfl
@[simp] theorem State.acceptPass_fX (s : State) (i : Instr) : (s.acceptPass i).fX = s.fX := rfl
@[simp] theorem State.acceptPass_fY (s : State) (i : Instr) : (s.acceptPass i).fY = s.fY := rfl
@[simp] theorem State.acceptPass_fW (s : State) (i : Instr) : (s.acceptPass i).fW = s.fW := rfl
@[simp] theorem State.acceptPass_fH (s : State) (i : Instr) : (s.acceptPass i).fH = s.fH := rfl
@[simp] theorem State.acceptPass_fAng (s : State) (i : Instr) : (s.acceptPass i).fAng = s.fAng := rfl
@[simp] theorem State.acceptPass_slots (s : State) (i : Instr) : (s.acceptPass i).slots = s.slots := rfl
@[simp] theorem State.acceptPass_status (s : State) (i : Instr) : (s.acceptPass i).status = s.status := rfl
@[simp] theorem State.acceptPass_lastRecords (s : State) (i : Instr) : (s.acceptPass i).lastRecords = s.lastRecords := rfl
@[simp] theorem State.acceptPass_lastAccepted (s : State) (i : Instr) : (s.acceptPass i).lastAccepted = s.lastAccepted := rfl
@[simp] theorem State.acceptPass_lastScanWords (s : State) (i : Instr) : (s.acceptPass i).lastScanWords = s.lastScanWords := rfl
@[simp] theorem State.acceptPass_oosCount (s : State) (i : Instr) : (s.acceptPass i).oosCount = s.oosCount := rfl
@[simp] theorem State.acceptPass_cksumFaultCount (s : State) (i : Instr) : (s.acceptPass i).cksumFaultCount = s.cksumFaultCount := rfl
@[simp] theorem State.acceptPass_lastFaultSig (s : State) (i : Instr) : (s.acceptPass i).lastFaultSig = s.lastFaultSig := rfl
@[simp] theorem State.acceptPass_events (s : State) (i : Instr) : (s.acceptPass i).events = s.events := rfl
@[simp] theorem State.acceptPass_response (s : State) (i : Instr) : (s.acceptPass i).response = s.response := rfl
@[simp] theorem State.acceptPass_outstanding (s : State) (i : Instr) : (s.acceptPass i).outstanding = s.outstanding := rfl
@[simp] theorem State.acceptPass_abandoned (s : State) (i : Instr) : (s.acceptPass i).abandoned = s.abandoned := rfl
@[simp] theorem State.acceptPass_commands (s : State) (i : Instr) : (s.acceptPass i).commands = s.commands := rfl
@[simp] theorem State.acceptPass_transport (s : State) (i : Instr) : (s.acceptPass i).transport = s.transport := rfl
@[simp] theorem State.acceptPass_alignment (s : State) (i : Instr) : (s.acceptPass i).alignment = s.alignment := rfl
@[simp] theorem State.acceptPass_hostReady (s : State) (i : Instr) : (s.acceptPass i).hostReady = s.hostReady := rfl
@[simp] theorem State.acceptPass_delivered (s : State) (i : Instr) : (s.acceptPass i).delivered = s.delivered := rfl
@[simp] theorem State.acceptPass_schedule (s : State) (i : Instr) : (s.acceptPass i).schedule = s.schedule := rfl

/-! ### `State.closeFields` -/

@[simp] theorem State.closeFields_config (s : State) : (s.closeFields).config = s.config := by
  cases h : s.btype <;> simp [State.closeFields, h]
@[simp] theorem State.closeFields_phase (s : State) : (s.closeFields).phase = s.phase := by
  cases h : s.btype <;> simp [State.closeFields, h]
@[simp] theorem State.closeFields_k (s : State) : (s.closeFields).k = s.k := by
  cases h : s.btype <;> simp [State.closeFields, h]
@[simp] theorem State.closeFields_cmdOp (s : State) : (s.closeFields).cmdOp = s.cmdOp := by
  cases h : s.btype <;> simp [State.closeFields, h]
@[simp] theorem State.closeFields_cmdArg (s : State) : (s.closeFields).cmdArg = s.cmdArg := by
  cases h : s.btype <;> simp [State.closeFields, h]
@[simp] theorem State.closeFields_prev (s : State) : (s.closeFields).prev = s.prev := by
  cases h : s.btype <;> simp [State.closeFields, h]
@[simp] theorem State.closeFields_cur (s : State) : (s.closeFields).cur = s.cur := by
  cases h : s.btype <;> simp [State.closeFields, h]
@[simp] theorem State.closeFields_scnt (s : State) : (s.closeFields).scnt = s.scnt := by
  cases h : s.btype <;> simp [State.closeFields, h]
@[simp] theorem State.closeFields_i (s : State) : (s.closeFields).i = s.i := by
  cases h : s.btype <;> simp [State.closeFields, h]
@[simp] theorem State.closeFields_btype (s : State) : (s.closeFields).btype = s.btype := by
  cases h : s.btype <;> simp [State.closeFields, h]
@[simp] theorem State.closeFields_tScan (s : State) : (s.closeFields).tScan = s.tScan := by
  cases h : s.btype <;> simp [State.closeFields, h]
@[simp] theorem State.closeFields_nrec (s : State) : (s.closeFields).nrec = s.nrec := by
  cases h : s.btype <;> simp [State.closeFields, h]
@[simp] theorem State.closeFields_nacc (s : State) : (s.closeFields).nacc = s.nacc := by
  cases h : s.btype <;> simp [State.closeFields, h]
@[simp] theorem State.closeFields_fCk (s : State) : (s.closeFields).fCk = s.fCk := by
  cases h : s.btype <;> simp [State.closeFields, h]
@[simp] theorem State.closeFields_fSig (s : State) : (s.closeFields).fSig = s.fSig := by
  cases h : s.btype <;> simp [State.closeFields, h]
@[simp] theorem State.closeFields_fX (s : State) : (s.closeFields).fX = s.fX := by
  cases h : s.btype <;> simp [State.closeFields, h]
@[simp] theorem State.closeFields_fY (s : State) : (s.closeFields).fY = s.fY := by
  cases h : s.btype <;> simp [State.closeFields, h]
@[simp] theorem State.closeFields_fW (s : State) : (s.closeFields).fW = s.fW := by
  cases h : s.btype <;> simp [State.closeFields, h]
@[simp] theorem State.closeFields_fH (s : State) : (s.closeFields).fH = s.fH := by
  cases h : s.btype <;> simp [State.closeFields, h]
@[simp] theorem State.closeFields_slots (s : State) : (s.closeFields).slots = s.slots := by
  cases h : s.btype <;> simp [State.closeFields, h]
@[simp] theorem State.closeFields_status (s : State) : (s.closeFields).status = s.status := by
  cases h : s.btype <;> simp [State.closeFields, h]
@[simp] theorem State.closeFields_lastRecords (s : State) : (s.closeFields).lastRecords = s.lastRecords := by
  cases h : s.btype <;> simp [State.closeFields, h]
@[simp] theorem State.closeFields_lastAccepted (s : State) : (s.closeFields).lastAccepted = s.lastAccepted := by
  cases h : s.btype <;> simp [State.closeFields, h]
@[simp] theorem State.closeFields_lastScanWords (s : State) : (s.closeFields).lastScanWords = s.lastScanWords := by
  cases h : s.btype <;> simp [State.closeFields, h]
@[simp] theorem State.closeFields_oosCount (s : State) : (s.closeFields).oosCount = s.oosCount := by
  cases h : s.btype <;> simp [State.closeFields, h]
@[simp] theorem State.closeFields_cksumFaultCount (s : State) : (s.closeFields).cksumFaultCount = s.cksumFaultCount := by
  cases h : s.btype <;> simp [State.closeFields, h]
@[simp] theorem State.closeFields_lastFaultSig (s : State) : (s.closeFields).lastFaultSig = s.lastFaultSig := by
  cases h : s.btype <;> simp [State.closeFields, h]
@[simp] theorem State.closeFields_events (s : State) : (s.closeFields).events = s.events := by
  cases h : s.btype <;> simp [State.closeFields, h]
@[simp] theorem State.closeFields_response (s : State) : (s.closeFields).response = s.response := by
  cases h : s.btype <;> simp [State.closeFields, h]
@[simp] theorem State.closeFields_outstanding (s : State) : (s.closeFields).outstanding = s.outstanding := by
  cases h : s.btype <;> simp [State.closeFields, h]
@[simp] theorem State.closeFields_abandoned (s : State) : (s.closeFields).abandoned = s.abandoned := by
  cases h : s.btype <;> simp [State.closeFields, h]
@[simp] theorem State.closeFields_commands (s : State) : (s.closeFields).commands = s.commands := by
  cases h : s.btype <;> simp [State.closeFields, h]
@[simp] theorem State.closeFields_transport (s : State) : (s.closeFields).transport = s.transport := by
  cases h : s.btype <;> simp [State.closeFields, h]
@[simp] theorem State.closeFields_alignment (s : State) : (s.closeFields).alignment = s.alignment := by
  cases h : s.btype <;> simp [State.closeFields, h]
@[simp] theorem State.closeFields_hostReady (s : State) : (s.closeFields).hostReady = s.hostReady := by
  cases h : s.btype <;> simp [State.closeFields, h]
@[simp] theorem State.closeFields_delivered (s : State) : (s.closeFields).delivered = s.delivered := by
  cases h : s.btype <;> simp [State.closeFields, h]
@[simp] theorem State.closeFields_schedule (s : State) : (s.closeFields).schedule = s.schedule := by
  cases h : s.btype <;> simp [State.closeFields, h]

/-! ### `State.setField` -/

@[simp] theorem State.setField_config (s : State) (k : FieldNo) (v : U16) : (s.setField k v).config = s.config := by
  cases k <;> rfl
@[simp] theorem State.setField_phase (s : State) (k : FieldNo) (v : U16) : (s.setField k v).phase = s.phase := by
  cases k <;> rfl
@[simp] theorem State.setField_k (s : State) (k : FieldNo) (v : U16) : (s.setField k v).k = s.k := by
  cases k <;> rfl
@[simp] theorem State.setField_cmdOp (s : State) (k : FieldNo) (v : U16) : (s.setField k v).cmdOp = s.cmdOp := by
  cases k <;> rfl
@[simp] theorem State.setField_cmdArg (s : State) (k : FieldNo) (v : U16) : (s.setField k v).cmdArg = s.cmdArg := by
  cases k <;> rfl
@[simp] theorem State.setField_prev (s : State) (k : FieldNo) (v : U16) : (s.setField k v).prev = s.prev := by
  cases k <;> rfl
@[simp] theorem State.setField_cur (s : State) (k : FieldNo) (v : U16) : (s.setField k v).cur = s.cur := by
  cases k <;> rfl
@[simp] theorem State.setField_scnt (s : State) (k : FieldNo) (v : U16) : (s.setField k v).scnt = s.scnt := by
  cases k <;> rfl
@[simp] theorem State.setField_i (s : State) (k : FieldNo) (v : U16) : (s.setField k v).i = s.i := by
  cases k <;> rfl
@[simp] theorem State.setField_btype (s : State) (k : FieldNo) (v : U16) : (s.setField k v).btype = s.btype := by
  cases k <;> rfl
@[simp] theorem State.setField_tScan (s : State) (k : FieldNo) (v : U16) : (s.setField k v).tScan = s.tScan := by
  cases k <;> rfl
@[simp] theorem State.setField_nrec (s : State) (k : FieldNo) (v : U16) : (s.setField k v).nrec = s.nrec := by
  cases k <;> rfl
@[simp] theorem State.setField_nacc (s : State) (k : FieldNo) (v : U16) : (s.setField k v).nacc = s.nacc := by
  cases k <;> rfl
@[simp] theorem State.setField_slots (s : State) (k : FieldNo) (v : U16) : (s.setField k v).slots = s.slots := by
  cases k <;> rfl
@[simp] theorem State.setField_status (s : State) (k : FieldNo) (v : U16) : (s.setField k v).status = s.status := by
  cases k <;> rfl
@[simp] theorem State.setField_lastRecords (s : State) (k : FieldNo) (v : U16) : (s.setField k v).lastRecords = s.lastRecords := by
  cases k <;> rfl
@[simp] theorem State.setField_lastAccepted (s : State) (k : FieldNo) (v : U16) : (s.setField k v).lastAccepted = s.lastAccepted := by
  cases k <;> rfl
@[simp] theorem State.setField_lastScanWords (s : State) (k : FieldNo) (v : U16) : (s.setField k v).lastScanWords = s.lastScanWords := by
  cases k <;> rfl
@[simp] theorem State.setField_oosCount (s : State) (k : FieldNo) (v : U16) : (s.setField k v).oosCount = s.oosCount := by
  cases k <;> rfl
@[simp] theorem State.setField_cksumFaultCount (s : State) (k : FieldNo) (v : U16) : (s.setField k v).cksumFaultCount = s.cksumFaultCount := by
  cases k <;> rfl
@[simp] theorem State.setField_lastFaultSig (s : State) (k : FieldNo) (v : U16) : (s.setField k v).lastFaultSig = s.lastFaultSig := by
  cases k <;> rfl
@[simp] theorem State.setField_events (s : State) (k : FieldNo) (v : U16) : (s.setField k v).events = s.events := by
  cases k <;> rfl
@[simp] theorem State.setField_response (s : State) (k : FieldNo) (v : U16) : (s.setField k v).response = s.response := by
  cases k <;> rfl
@[simp] theorem State.setField_outstanding (s : State) (k : FieldNo) (v : U16) : (s.setField k v).outstanding = s.outstanding := by
  cases k <;> rfl
@[simp] theorem State.setField_abandoned (s : State) (k : FieldNo) (v : U16) : (s.setField k v).abandoned = s.abandoned := by
  cases k <;> rfl
@[simp] theorem State.setField_commands (s : State) (k : FieldNo) (v : U16) : (s.setField k v).commands = s.commands := by
  cases k <;> rfl
@[simp] theorem State.setField_transport (s : State) (k : FieldNo) (v : U16) : (s.setField k v).transport = s.transport := by
  cases k <;> rfl
@[simp] theorem State.setField_alignment (s : State) (k : FieldNo) (v : U16) : (s.setField k v).alignment = s.alignment := by
  cases k <;> rfl
@[simp] theorem State.setField_hostReady (s : State) (k : FieldNo) (v : U16) : (s.setField k v).hostReady = s.hostReady := by
  cases k <;> rfl
@[simp] theorem State.setField_delivered (s : State) (k : FieldNo) (v : U16) : (s.setField k v).delivered = s.delivered := by
  cases k <;> rfl
@[simp] theorem State.setField_schedule (s : State) (k : FieldNo) (v : U16) : (s.setField k v).schedule = s.schedule := by
  cases k <;> rfl

/-! ### `State.deliver` -/

@[simp] theorem State.deliver_config (s : State) : (s.deliver).config = s.config := by
  rcases h : s.response with _ | ⟨w, _ | ⟨w', ws⟩⟩ <;> simp [State.deliver, h]
@[simp] theorem State.deliver_k (s : State) : (s.deliver).k = s.k := by
  rcases h : s.response with _ | ⟨w, _ | ⟨w', ws⟩⟩ <;> simp [State.deliver, h]
@[simp] theorem State.deliver_cmdOp (s : State) : (s.deliver).cmdOp = s.cmdOp := by
  rcases h : s.response with _ | ⟨w, _ | ⟨w', ws⟩⟩ <;> simp [State.deliver, h]
@[simp] theorem State.deliver_cmdArg (s : State) : (s.deliver).cmdArg = s.cmdArg := by
  rcases h : s.response with _ | ⟨w, _ | ⟨w', ws⟩⟩ <;> simp [State.deliver, h]
@[simp] theorem State.deliver_prev (s : State) : (s.deliver).prev = s.prev := by
  rcases h : s.response with _ | ⟨w, _ | ⟨w', ws⟩⟩ <;> simp [State.deliver, h]
@[simp] theorem State.deliver_cur (s : State) : (s.deliver).cur = s.cur := by
  rcases h : s.response with _ | ⟨w, _ | ⟨w', ws⟩⟩ <;> simp [State.deliver, h]
@[simp] theorem State.deliver_scnt (s : State) : (s.deliver).scnt = s.scnt := by
  rcases h : s.response with _ | ⟨w, _ | ⟨w', ws⟩⟩ <;> simp [State.deliver, h]
@[simp] theorem State.deliver_i (s : State) : (s.deliver).i = s.i := by
  rcases h : s.response with _ | ⟨w, _ | ⟨w', ws⟩⟩ <;> simp [State.deliver, h]
@[simp] theorem State.deliver_btype (s : State) : (s.deliver).btype = s.btype := by
  rcases h : s.response with _ | ⟨w, _ | ⟨w', ws⟩⟩ <;> simp [State.deliver, h]
@[simp] theorem State.deliver_tScan (s : State) : (s.deliver).tScan = s.tScan := by
  rcases h : s.response with _ | ⟨w, _ | ⟨w', ws⟩⟩ <;> simp [State.deliver, h]
@[simp] theorem State.deliver_nrec (s : State) : (s.deliver).nrec = s.nrec := by
  rcases h : s.response with _ | ⟨w, _ | ⟨w', ws⟩⟩ <;> simp [State.deliver, h]
@[simp] theorem State.deliver_nacc (s : State) : (s.deliver).nacc = s.nacc := by
  rcases h : s.response with _ | ⟨w, _ | ⟨w', ws⟩⟩ <;> simp [State.deliver, h]
@[simp] theorem State.deliver_fCk (s : State) : (s.deliver).fCk = s.fCk := by
  rcases h : s.response with _ | ⟨w, _ | ⟨w', ws⟩⟩ <;> simp [State.deliver, h]
@[simp] theorem State.deliver_fSig (s : State) : (s.deliver).fSig = s.fSig := by
  rcases h : s.response with _ | ⟨w, _ | ⟨w', ws⟩⟩ <;> simp [State.deliver, h]
@[simp] theorem State.deliver_fX (s : State) : (s.deliver).fX = s.fX := by
  rcases h : s.response with _ | ⟨w, _ | ⟨w', ws⟩⟩ <;> simp [State.deliver, h]
@[simp] theorem State.deliver_fY (s : State) : (s.deliver).fY = s.fY := by
  rcases h : s.response with _ | ⟨w, _ | ⟨w', ws⟩⟩ <;> simp [State.deliver, h]
@[simp] theorem State.deliver_fW (s : State) : (s.deliver).fW = s.fW := by
  rcases h : s.response with _ | ⟨w, _ | ⟨w', ws⟩⟩ <;> simp [State.deliver, h]
@[simp] theorem State.deliver_fH (s : State) : (s.deliver).fH = s.fH := by
  rcases h : s.response with _ | ⟨w, _ | ⟨w', ws⟩⟩ <;> simp [State.deliver, h]
@[simp] theorem State.deliver_fAng (s : State) : (s.deliver).fAng = s.fAng := by
  rcases h : s.response with _ | ⟨w, _ | ⟨w', ws⟩⟩ <;> simp [State.deliver, h]
@[simp] theorem State.deliver_slots (s : State) : (s.deliver).slots = s.slots := by
  rcases h : s.response with _ | ⟨w, _ | ⟨w', ws⟩⟩ <;> simp [State.deliver, h]
@[simp] theorem State.deliver_status (s : State) : (s.deliver).status = s.status := by
  rcases h : s.response with _ | ⟨w, _ | ⟨w', ws⟩⟩ <;> simp [State.deliver, h]
@[simp] theorem State.deliver_lastRecords (s : State) : (s.deliver).lastRecords = s.lastRecords := by
  rcases h : s.response with _ | ⟨w, _ | ⟨w', ws⟩⟩ <;> simp [State.deliver, h]
@[simp] theorem State.deliver_lastAccepted (s : State) : (s.deliver).lastAccepted = s.lastAccepted := by
  rcases h : s.response with _ | ⟨w, _ | ⟨w', ws⟩⟩ <;> simp [State.deliver, h]
@[simp] theorem State.deliver_lastScanWords (s : State) : (s.deliver).lastScanWords = s.lastScanWords := by
  rcases h : s.response with _ | ⟨w, _ | ⟨w', ws⟩⟩ <;> simp [State.deliver, h]
@[simp] theorem State.deliver_oosCount (s : State) : (s.deliver).oosCount = s.oosCount := by
  rcases h : s.response with _ | ⟨w, _ | ⟨w', ws⟩⟩ <;> simp [State.deliver, h]
@[simp] theorem State.deliver_cksumFaultCount (s : State) : (s.deliver).cksumFaultCount = s.cksumFaultCount := by
  rcases h : s.response with _ | ⟨w, _ | ⟨w', ws⟩⟩ <;> simp [State.deliver, h]
@[simp] theorem State.deliver_lastFaultSig (s : State) : (s.deliver).lastFaultSig = s.lastFaultSig := by
  rcases h : s.response with _ | ⟨w, _ | ⟨w', ws⟩⟩ <;> simp [State.deliver, h]
@[simp] theorem State.deliver_events (s : State) : (s.deliver).events = s.events := by
  rcases h : s.response with _ | ⟨w, _ | ⟨w', ws⟩⟩ <;> simp [State.deliver, h]
@[simp] theorem State.deliver_outstanding (s : State) : (s.deliver).outstanding = s.outstanding := by
  rcases h : s.response with _ | ⟨w, _ | ⟨w', ws⟩⟩ <;> simp [State.deliver, h]
@[simp] theorem State.deliver_abandoned (s : State) : (s.deliver).abandoned = s.abandoned := by
  rcases h : s.response with _ | ⟨w, _ | ⟨w', ws⟩⟩ <;> simp [State.deliver, h]
@[simp] theorem State.deliver_commands (s : State) : (s.deliver).commands = s.commands := by
  rcases h : s.response with _ | ⟨w, _ | ⟨w', ws⟩⟩ <;> simp [State.deliver, h]
@[simp] theorem State.deliver_transport (s : State) : (s.deliver).transport = s.transport := by
  rcases h : s.response with _ | ⟨w, _ | ⟨w', ws⟩⟩ <;> simp [State.deliver, h]
@[simp] theorem State.deliver_alignment (s : State) : (s.deliver).alignment = s.alignment := by
  rcases h : s.response with _ | ⟨w, _ | ⟨w', ws⟩⟩ <;> simp [State.deliver, h]
@[simp] theorem State.deliver_hostReady (s : State) : (s.deliver).hostReady = s.hostReady := by
  rcases h : s.response with _ | ⟨w, _ | ⟨w', ws⟩⟩ <;> simp [State.deliver, h]
@[simp] theorem State.deliver_schedule (s : State) : (s.deliver).schedule = s.schedule := by
  rcases h : s.response with _ | ⟨w, _ | ⟨w', ws⟩⟩ <;> simp [State.deliver, h]

/-! ### `State.nextRecord` -/

@[simp] theorem State.nextRecord_config (s : State) : (s.nextRecord).config = s.config := by
  unfold State.nextRecord; split <;> rfl
@[simp] theorem State.nextRecord_k (s : State) : (s.nextRecord).k = s.k := by
  unfold State.nextRecord; split <;> rfl
@[simp] theorem State.nextRecord_cmdOp (s : State) : (s.nextRecord).cmdOp = s.cmdOp := by
  unfold State.nextRecord; split <;> rfl
@[simp] theorem State.nextRecord_cmdArg (s : State) : (s.nextRecord).cmdArg = s.cmdArg := by
  unfold State.nextRecord; split <;> rfl
@[simp] theorem State.nextRecord_prev (s : State) : (s.nextRecord).prev = s.prev := by
  unfold State.nextRecord; split <;> rfl
@[simp] theorem State.nextRecord_cur (s : State) : (s.nextRecord).cur = s.cur := by
  unfold State.nextRecord; split <;> rfl
@[simp] theorem State.nextRecord_scnt (s : State) : (s.nextRecord).scnt = s.scnt := by
  unfold State.nextRecord; split <;> rfl
@[simp] theorem State.nextRecord_btype (s : State) : (s.nextRecord).btype = s.btype := by
  unfold State.nextRecord; split <;> rfl
@[simp] theorem State.nextRecord_tScan (s : State) : (s.nextRecord).tScan = s.tScan := by
  unfold State.nextRecord; split <;> rfl
@[simp] theorem State.nextRecord_nrec (s : State) : (s.nextRecord).nrec = s.nrec := by
  unfold State.nextRecord; split <;> rfl
@[simp] theorem State.nextRecord_nacc (s : State) : (s.nextRecord).nacc = s.nacc := by
  unfold State.nextRecord; split <;> rfl
@[simp] theorem State.nextRecord_fCk (s : State) : (s.nextRecord).fCk = s.fCk := by
  unfold State.nextRecord; split <;> rfl
@[simp] theorem State.nextRecord_fSig (s : State) : (s.nextRecord).fSig = s.fSig := by
  unfold State.nextRecord; split <;> rfl
@[simp] theorem State.nextRecord_fX (s : State) : (s.nextRecord).fX = s.fX := by
  unfold State.nextRecord; split <;> rfl
@[simp] theorem State.nextRecord_fY (s : State) : (s.nextRecord).fY = s.fY := by
  unfold State.nextRecord; split <;> rfl
@[simp] theorem State.nextRecord_fW (s : State) : (s.nextRecord).fW = s.fW := by
  unfold State.nextRecord; split <;> rfl
@[simp] theorem State.nextRecord_fH (s : State) : (s.nextRecord).fH = s.fH := by
  unfold State.nextRecord; split <;> rfl
@[simp] theorem State.nextRecord_fAng (s : State) : (s.nextRecord).fAng = s.fAng := by
  unfold State.nextRecord; split <;> rfl
@[simp] theorem State.nextRecord_slots (s : State) : (s.nextRecord).slots = s.slots := by
  unfold State.nextRecord; split <;> rfl
@[simp] theorem State.nextRecord_oosCount (s : State) : (s.nextRecord).oosCount = s.oosCount := by
  unfold State.nextRecord; split <;> rfl
@[simp] theorem State.nextRecord_cksumFaultCount (s : State) : (s.nextRecord).cksumFaultCount = s.cksumFaultCount := by
  unfold State.nextRecord; split <;> rfl
@[simp] theorem State.nextRecord_lastFaultSig (s : State) : (s.nextRecord).lastFaultSig = s.lastFaultSig := by
  unfold State.nextRecord; split <;> rfl
@[simp] theorem State.nextRecord_events (s : State) : (s.nextRecord).events = s.events := by
  unfold State.nextRecord; split <;> rfl
@[simp] theorem State.nextRecord_outstanding (s : State) : (s.nextRecord).outstanding = s.outstanding := by
  unfold State.nextRecord; split <;> rfl
@[simp] theorem State.nextRecord_abandoned (s : State) : (s.nextRecord).abandoned = s.abandoned := by
  unfold State.nextRecord; split <;> rfl
@[simp] theorem State.nextRecord_commands (s : State) : (s.nextRecord).commands = s.commands := by
  unfold State.nextRecord; split <;> rfl
@[simp] theorem State.nextRecord_transport (s : State) : (s.nextRecord).transport = s.transport := by
  unfold State.nextRecord; split <;> rfl
@[simp] theorem State.nextRecord_alignment (s : State) : (s.nextRecord).alignment = s.alignment := by
  unfold State.nextRecord; split <;> rfl
@[simp] theorem State.nextRecord_hostReady (s : State) : (s.nextRecord).hostReady = s.hostReady := by
  unfold State.nextRecord; split <;> rfl
@[simp] theorem State.nextRecord_delivered (s : State) : (s.nextRecord).delivered = s.delivered := by
  unfold State.nextRecord; split <;> rfl
@[simp] theorem State.nextRecord_schedule (s : State) : (s.nextRecord).schedule = s.schedule := by
  unfold State.nextRecord; split <;> rfl

/-! ### `State.resetBlock` -/

@[simp] theorem State.resetBlock_config (s : State) : (s.resetBlock).config = s.config := by
  rfl
@[simp] theorem State.resetBlock_outstanding (s : State) : (s.resetBlock).outstanding = s.outstanding := by
  rfl
@[simp] theorem State.resetBlock_abandoned (s : State) : (s.resetBlock).abandoned = s.abandoned := by
  rfl
@[simp] theorem State.resetBlock_commands (s : State) : (s.resetBlock).commands = s.commands := by
  rfl
@[simp] theorem State.resetBlock_transport (s : State) : (s.resetBlock).transport = s.transport := by
  rfl
@[simp] theorem State.resetBlock_alignment (s : State) : (s.resetBlock).alignment = s.alignment := by
  rfl
@[simp] theorem State.resetBlock_hostReady (s : State) : (s.resetBlock).hostReady = s.hostReady := by
  rfl
@[simp] theorem State.resetBlock_delivered (s : State) : (s.resetBlock).delivered = s.delivered := by
  rfl
@[simp] theorem State.resetBlock_schedule (s : State) : (s.resetBlock).schedule = s.schedule := by
  rfl

/-- A Normal record's angle is 0 (R133). -/
@[simp] theorem State.closeFields_fAng (s : State) :
    s.closeFields.fAng = if s.btype = .normal then 0#16 else s.fAng := by
  cases h : s.btype <;> simp [State.closeFields, h]

end Sys2Proof.Machine
end

