-- ==== Sys2Proof/Laws/Ops.lean ====
section
/-! SUPPORT. One lemma for each shared operation that says all it can answer (inversion), up to one step of the
system. -/

namespace Sys2Proof.Machine

/-! ### Result codes and blocks of STATUS -/

/-- The codes 0xB to 0xF are never produced (R98, R180). -/
theorem ResultCode.code_le (c : ResultCode) : c.code.toNat ≤ 0xA := by
  rcases c with _ | _ | _ | _ | (_ | _ | _) | _ | (_ | _ | _) <;> decide

/-- The fields of the STATUS word that `finish` writes (R156). -/
theorem statusWord_fields (code : ResultCode) (synced : Bool) (cc : BlockType) :
    statusLastResult (statusWord code synced cc) = code.code ∧
      statusLastSynced (statusWord code synced cc) = synced ∧
      statusLastFirstCc (statusWord code synced cc) = decide (cc = .colorCode) ∧
      statusReserved (statusWord code synced cc) = 0#10 := by
  rcases code with _ | _ | _ | _ | (_ | _ | _) | _ | (_ | _ | _) <;> cases synced <;> cases cc <;> decide

/-- The fields of a response header (R93). -/
theorem respHdr_fields (code : ResultCode) (illegal : Bool) :
    (respHdr code illegal).extractLsb' 0 4 = code.code ∧
      (respHdr code illegal).getLsbD 4 = illegal ∧ (respHdr code illegal).extractLsb' 5 11 = 0#11 := by
  rcases code with _ | _ | _ | _ | (_ | _ | _) | _ | (_ | _ | _) <;> cases illegal <;> decide

/-- A slot record has seven words (R95). -/
@[simp] theorem slotRecord_length (slot : Slot) : (slotRecord slot).length = 7 := by
  cases slot <;> rfl

/-- The record GET_DETECTION sends has seven words, whatever the index (R95, R158). -/
@[simp] theorem State.detectionRecord_length (s : State) (index : U16) :
    (s.detectionRecord index).length = 7 := by
  unfold State.detectionRecord
  split <;> simp [absentRecord]

/-- The header comes first, so a pass's response is never empty (R93). -/
theorem State.passResponse_ne_nil (s : State) (code : ResultCode) : s.passResponse code ≠ [] := by
  simp [State.passResponse]

/-! ### Transport -/

/-- What the oracle answers to a word request. -/
theorem oracleReadWord_answered {ts : List Token} {r : Response U16} {t : Transport}
    (h : oracleReadWord ts = .answered r t) :
    (∃ v rest, ts = .word v :: rest ∧ r = .data v ∧ t = .oracle rest) ∨
      (∃ c rest, ts = .nonData c :: rest ∧ r = .nonData c ∧ t = .oracle rest) := by
  rcases ts with _ | ⟨_ | _ | _, rest⟩ <;> simp_all [oracleReadWord]

/-- What the oracle answers to a byte request. -/
theorem oracleReadByte_answered {ts : List Token} {r : Response U8} {t : Transport}
    (h : oracleReadByte ts = .answered r t) :
    (∃ b rest, ts = .byte b :: rest ∧ r = .data b ∧ t = .oracle rest) ∨
      (∃ c rest, ts = .nonData c :: rest ∧ r = .nonData c ∧ t = .oracle rest) := by
  rcases ts with _ | ⟨_ | _ | _, rest⟩ <;> simp_all [oracleReadByte]

/-- What the reference transport answers to a word request (R62): two bytes, or no value. Only a marker `FLT` is
ever consumed without a value. -/
theorem RefTransport.readWord_answered {t : RefTransport} {r : Response U16} {tr : Transport}
    (h : t.readWord = .answered r tr) :
    (∃ b0 b1 q, t.queue = .byte b0 :: .byte b1 :: q ∧ r = .data (assemble t.endian b0 b1) ∧
        tr = .reference { t with queue := q }) ∨
      (∃ c, r = .nonData c ∧ (tr = .reference t ∨ .flt ∈ t.queue)) := by
  rcases t with ⟨q, e, en, nb⟩
  rcases q with _ | ⟨_ | _, _ | ⟨_ | _, q⟩⟩ <;>
    simp [RefTransport.readWord, RefTransport.shortWord] at h ⊢
  all_goals try (repeat' split at h)
  all_goals try (cases h; done)
  all_goals try (injection h with h1 h2)
  all_goals try (obtain ⟨h1, h2⟩ := h)
  all_goals (subst h1; subst h2; simp)

/-- What the reference transport answers to a byte request (R62). -/
theorem RefTransport.readByte_answered {t : RefTransport} {r : Response U8} {tr : Transport}
    (h : t.readByte = .answered r tr) :
    (∃ b q, t.queue = .byte b :: q ∧ r = .data b ∧ tr = .reference { t with queue := q }) ∨
      (∃ c, r = .nonData c ∧ (tr = .reference t ∨ .flt ∈ t.queue)) := by
  rcases t with ⟨q, e, en, nb⟩
  rcases q with _ | ⟨_ | _, q⟩ <;> simp [RefTransport.readByte] at h ⊢
  all_goals try (repeat' split at h)
  all_goals try (cases h; done)
  all_goals try (injection h with h1 h2)
  all_goals try (obtain ⟨h1, h2⟩ := h)
  all_goals (subst h1; subst h2; simp)

/-- All that a move can bring a transport (R62). -/
theorem Transport.feed_some {t tr : Transport} {m : Move} (h : t.feed m = some tr) :
    (∃ ts x, t = .oracle ts ∧ m = .token x ∧ tr = .oracle (ts ++ [x])) ∨
      (∃ r x, t = .reference r ∧ m = .item x ∧ r.ended = false ∧
        tr = .reference { r with queue := r.queue ++ [x] }) ∨
      (∃ r, t = .reference r ∧ m = .endStream ∧ tr = .reference { r with ended := true }) := by
  unfold Transport.feed at h
  split at h
  · exact .inl ⟨_, _, rfl, rfl, (Option.some.inj h).symm⟩
  · split at h
    · cases h
    · next he => exact .inr (.inl ⟨_, _, rfl, rfl, by simpa using he, (Option.some.inj h).symm⟩)
  · exact .inr (.inr ⟨_, rfl, rfl, (Option.some.inj h).symm⟩)
  · cases h

/-- A move that is none of the transport's brings it nothing. -/
@[simp] theorem Transport.feed_block (t : Transport) : t.feed .block = none := by cases t <;> rfl
@[simp] theorem Transport.feed_offer (t : Transport) (c : U32) : t.feed (.offer c) = none := by
  cases t <;> rfl
@[simp] theorem Transport.feed_hostReady (t : Transport) (b : Bool) : t.feed (.hostReady b) = none := by
  cases t <;> rfl
@[simp] theorem Transport.feed_reset (t : Transport) : t.feed .reset = none := by cases t <;> rfl

/-- What a discarded word request leaves is what the word request leaves (R201). -/
theorem Transport.discard_word {t tr : Transport} {data : Bool} (h : t.discard .word = .done tr data) :
    ∃ r, t.readWord = .answered r tr ∧ (data = true ↔ ∃ v, r = .data v) := by
  simp only [Transport.discard, Reply.discard] at h
  split at h <;> simp_all

/-- What a discarded byte request leaves is what the byte request leaves (R201). -/
theorem Transport.discard_byte {t tr : Transport} {data : Bool} (h : t.discard .byte = .done tr data) :
    ∃ r, t.readByte = .answered r tr ∧ (data = true ↔ ∃ b, r = .data b) := by
  simp only [Transport.discard, Reply.discard] at h
  split at h <;> simp_all

/-! ### The alignment phase (R45) -/

@[simp] theorem AlignmentPhase.flip_flip (a : AlignmentPhase) : a.flip.flip = a := by cases a <;> rfl
@[simp] theorem AlignmentPhase.after_word (a : AlignmentPhase) (data : Bool) : a.after .word data = a := rfl
@[simp] theorem AlignmentPhase.after_byte_data (a : AlignmentPhase) : a.after .byte true = a.flip := rfl
@[simp] theorem AlignmentPhase.after_byte_nonData (a : AlignmentPhase) : a.after .byte false = a := rfl

/-! ### Requests, records, delivery -/

/-- All a transport request can lead to (R67, R201). -/
theorem State.request_next {α : Type} {s t : State} {w : Width} {reply : Reply α}
    {go : Response α → State → Result State} (h : s.request w reply go = .next t) :
    (s.abandoned ≠ none ∧ t = s) ∨
      (s.abandoned = none ∧ reply = .waiting ∧ t = { s with outstanding := some w }) ∨
      (∃ r tr, s.abandoned = none ∧ reply = .answered r tr ∧ go r (s.gotResponse tr) = .next t) := by
  unfold State.request at h
  split at h
  · next hw => exact .inl ⟨by simp [hw], by cases h; rfl⟩
  · next hn =>
    split at h
    · exact .inr (.inr ⟨_, _, hn, rfl, h⟩)
    · exact .inr (.inl ⟨hn, rfl, by cases h; rfl⟩)
    · cases h

/-- A request never stops the machine by a fault of its own. -/
theorem State.request_fault {α : Type} {s : State} {w : Width} {reply : Reply α} {f : Fault}
    {go : Response α → State → Result State} (h : s.request w reply go = .fault f) :
    ∃ r tr, s.abandoned = none ∧ reply = .answered r tr ∧ go r (s.gotResponse tr) = .fault f := by
  unfold State.request at h
  split at h
  · cases h
  · next hn =>
    split at h
    · exact ⟨_, _, hn, rfl, h⟩
    · cases h
    · cases h

/-- What follows a record: the next sync word, or the end of the pass (R155). -/
theorem State.nextRecord_cases (s : State) :
    (s.i.toNat + 1 < s.config.nSlots ∧
        s.nextRecord = { s with i := s.i + 1#16, phase := .recType }) ∨
      (s.config.nSlots ≤ s.i.toNat + 1 ∧
        s.nextRecord = s.finish .frameComplete true s.tScan) := by
  unfold State.nextRecord
  split
  · next h => exact .inl ⟨h, rfl⟩
  · next h => exact .inr ⟨by omega, rfl⟩

/-- All the end of a record can answer (R130, R135). -/
theorem State.endRecord_next {s t : State} (h : s.endRecord = .next t) :
    (s.closeFields.sum = s.fCk ∧ s.i.toNat < s.config.nSlots ∧ t = s.closeFields.commit.nextRecord) ∨
      (s.closeFields.sum ≠ s.fCk ∧ t = s.closeFields.reject.nextRecord) := by
  simp only [State.endRecord, State.closeFields_fCk, State.closeFields_i,
    State.closeFields_config] at h
  split at h
  · next hs =>
    split at h
    · next hi => exact .inl ⟨hs, hi, by cases h; rfl⟩
    · cases h
  · next hs => exact .inr ⟨hs, by cases h; rfl⟩

/-- The end of a record faults only for a slot that does not exist (R14). -/
theorem State.endRecord_fault {s : State} {f : Fault} (h : s.endRecord = .fault f) :
    s.config.nSlots ≤ s.i.toNat := by
  simp only [State.endRecord, State.closeFields_fCk, State.closeFields_i,
    State.closeFields_config] at h
  split at h
  · split at h
    · cases h
    · omega
  · cases h

/-- All a body word can lead to (R133). -/
theorem State.takeField_next {s t : State} {v : U16} (h : s.takeField v = .next t) :
    (∃ k, s.k.next s.btype = some k ∧ t = { s.setField s.k v with k := k }) ∨
      (s.k.next s.btype = none ∧ (s.setField s.k v).endRecord = .next t) := by
  unfold State.takeField at h
  split at h
  · next k hk => exact .inl ⟨k, hk, by cases h; rfl⟩
  · next hk => exact .inr ⟨hk, h⟩

/-- All the delivery of a word does (R151). -/
theorem State.deliver_cases (s : State) :
    (s.response = [] ∧ s.deliver = { s with phase := .idle }) ∨
      (∃ w, s.response = [w] ∧
        s.deliver = { s with response := [], delivered := s.delivered ++ [w], phase := .idle }) ∨
      (∃ w w' ws, s.response = w :: w' :: ws ∧
        s.deliver = { s with response := w' :: ws, delivered := s.delivered ++ [w] }) := by
  rcases h : s.response with _ | ⟨w, _ | ⟨w', ws⟩⟩ <;> simp [State.deliver, h]

/-! ### Instructions -/

/-- Every instruction answers a next state; the states they answer (R115 to R119, R131, R155 to R162). -/
theorem exec_next (i : Instr) (s : State) :
    exec i s = .next (match i with
      | .update => s.acceptPass .update
      | .getDetection index => s.acceptPass (.getDetection index)
      | .getAll => s.acceptPass .getAll
      | .readReg reg =>
        (s.latch (commandOf (encode (.readReg reg)))).respond
          (match s.register reg with
            | some value => [respHdr .none false, value]
            | none => [respHdr .none true])
      | .illegal word => (s.latch word).respond [respHdr .none true]
      | .scanIdleZero =>
        if s.prev = zeroWord then (s.takeScanWord zeroWord).noFrame .noFrameIdle
        else (s.takeScanWord zeroWord).shift
      | .scanSyncNormal =>
        if s.prev = syncNormal then (s.takeScanWord syncNormal).synced .normal
        else (s.takeScanWord syncNormal).shift
      | .scanSyncColorCode =>
        if s.prev = syncNormal then (s.takeScanWord syncColorCode).synced .colorCode
        else (s.takeScanWord syncColorCode).shift
      | .scanOutOfSync =>
        ({ s.takeScanWord outOfSyncWord with
            oosCount := s.oosCount + 1#16, phase := .scanByte } : State).emit .outOfSync
      | .scanOther word => (s.takeScanWord word).shift
      | .recSyncNormal => s.beginBody .normal
      | .recSyncColorCode => s.beginBody .colorCode
      | .recSyncBad _ => s.abortPass .abortBadSync) := by
  cases i with
  | readReg reg => simp only [exec, execReadReg]; cases s.register reg <;> rfl
  | scanIdleZero => simp only [exec, execScanIdleZero]; split <;> rfl
  | scanSyncNormal => simp only [exec, execScanSyncNormal]; split <;> rfl
  | scanSyncColorCode => simp only [exec, execScanSyncColorCode]; split <;> rfl
  | _ => rfl

/-! ### One step -/

/-- A step of the block in IDLE (R21). -/
theorem blockStep_idle {s : State} (h : s.phase = .idle) : blockStep s = idleStep s := by
  simp only [blockStep, h]

/-- A step of the block in SCAN_WORD (R21). -/
theorem blockStep_scanWord {s : State} (h : s.phase = .scanWord) : blockStep s = scanWordStep s := by
  simp only [blockStep, h]

/-- A step of the block in SCAN_BYTE (R21). -/
theorem blockStep_scanByte {s : State} (h : s.phase = .scanByte) : blockStep s = scanByteStep s := by
  simp only [blockStep, h]

/-- A step of the block in REC_TYPE (R21). -/
theorem blockStep_recType {s : State} (h : s.phase = .recType) : blockStep s = recTypeStep s := by
  simp only [blockStep, h]

/-- A step of the block in REC_FIELD (R21). -/
theorem blockStep_recField {s : State} (h : s.phase = .recField) : blockStep s = recFieldStep s := by
  simp only [blockStep, h]

/-- A step of the block in RESPOND (R21). -/
theorem blockStep_respond {s : State} (h : s.phase = .respond) : blockStep s = respondStep s := by
  simp only [blockStep, h]

/-- A step of a block whose turn it is. -/
theorem step_block {s : State} (hc : s.config.legal = true) (hm : nextMove s = .block) :
    step s = blockStep s.dropMove := by
  simp [step, hc, hm]

/-- A move of the environment whose turn it is. -/
theorem step_env {s : State} (hc : s.config.legal = true) (hm : nextMove s ≠ .block) :
    step s = envMove (nextMove s) s.dropMove := by
  simp only [step, hc, if_true]

/-- All a step can answer: the block's step, or a move of the environment. -/
theorem step_next {s t : State} (h : step s = .next t) :
    s.config.legal = true ∧
      ((nextMove s = .block ∧ blockStep s.dropMove = .next t) ∨
        (nextMove s ≠ .block ∧ envMove (nextMove s) s.dropMove = .next t)) := by
  unfold step at h
  split at h
  · next hc =>
    refine ⟨hc, ?_⟩
    split at h
    · next hm => exact .inl ⟨hm, h⟩
    · next hm => exact .inr ⟨by simpa using hm, h⟩
  · cases h

end Sys2Proof.Machine
end

