-- ==== Sys2Proof/Laws/Step.lean ====
section
/-! SUPPORT. All that one step can do, said once: the cases of a block's step and of a move of the environment. Every
property of all steps is a case analysis over these. -/

namespace Sys2Proof.Machine

/-- Every way a step of the block leads from `s` to a next state. -/
inductive BlockTo (s : State) : State → Prop where
  /-- No command is offered. -/
  | idleHold : s.phase = .idle → s.commands = [] → BlockTo s s
  /-- A command is accepted (R150). -/
  | accept {t : State} (w : U32) (ws : List U32) : s.phase = .idle → s.commands = w :: ws →
      exec (decodeCommand w) { s with commands := ws } = .next t → BlockTo s t
  /-- The scan is at its limit (R112). -/
  | scanLimit : s.phase = .scanWord → s.scnt.toNat = s.config.scanLimit →
      BlockTo s (s.noFrame .noFrameScanLimit)
  /-- The transport still owes the response of an abandoned request. -/
  | owed : s.inPass = true → s.abandoned ≠ none → BlockTo s s
  /-- The word request has no response (R67). -/
  | waitWord : s.abandoned = none → s.transport.readWord = .waiting →
      (s.phase = .scanWord ∧ s.scnt.toNat ≠ s.config.scanLimit ∨ s.inRecord = true) →
      BlockTo s { s with outstanding := some .word }
  /-- The recovery byte request has no response (R67). -/
  | waitByte : s.abandoned = none → s.transport.readByte = .waiting → s.phase = .scanByte →
      BlockTo s { s with outstanding := some .byte }
  /-- A scan word (R112). -/
  | scanData {t : State} (v : U16) (tr : Transport) : s.phase = .scanWord →
      s.scnt.toNat ≠ s.config.scanLimit → s.abandoned = none →
      s.transport.readWord = .answered (.data v) tr →
      exec (decodeScan v) (s.gotResponse tr) = .next t → BlockTo s t
  /-- No value for the scan's word request (R120). -/
  | scanNonData (c : NonData) (tr : Transport) : s.phase = .scanWord →
      s.scnt.toNat ≠ s.config.scanLimit → s.abandoned = none →
      s.transport.readWord = .answered (.nonData c) tr →
      BlockTo s ((s.gotResponse tr).noFrame (.noFrame c))
  /-- The recovery byte (R118). -/
  | byteData (b : U8) (tr : Transport) : s.phase = .scanByte → s.abandoned = none →
      s.transport.readByte = .answered (.data b) tr →
      BlockTo s ((s.gotResponse tr).realign .byte true).shift
  /-- No value for the recovery byte request (R120). -/
  | byteNonData (c : NonData) (tr : Transport) : s.phase = .scanByte → s.abandoned = none →
      s.transport.readByte = .answered (.nonData c) tr →
      BlockTo s ((s.gotResponse tr).noFrame (.noFrame c))
  /-- The word in a record's sync position (R131). -/
  | syncData {t : State} (v : U16) (tr : Transport) : s.phase = .recType → s.abandoned = none →
      s.transport.readWord = .answered (.data v) tr →
      exec (decodeRecord v) (s.gotResponse tr) = .next t → BlockTo s t
  /-- A body word (R133). -/
  | fieldData {t : State} (v : U16) (tr : Transport) : s.phase = .recField → s.abandoned = none →
      s.transport.readWord = .answered (.data v) tr →
      (s.gotResponse tr).takeField v = .next t → BlockTo s t
  /-- No value for a request of the record decoder (R136). -/
  | recordNonData (c : NonData) (tr : Transport) : s.inRecord = true → s.abandoned = none →
      s.transport.readWord = .answered (.nonData c) tr →
      BlockTo s ((s.gotResponse tr).abortPass (.abort c))
  /-- A response word is taken (R151). -/
  | deliver : s.phase = .respond → s.hostReady = true → BlockTo s s.deliver
  /-- The host takes no word (R151). -/
  | notTaken : s.phase = .respond → s.hostReady = false → BlockTo s s

/-- The inversion of the block's step. -/
theorem blockStep_next {s t : State} (h : blockStep s = .next t) : BlockTo s t := by
  cases hp : s.phase with
  | idle =>
    rw [blockStep_idle hp, idleStep] at h
    split at h
    · next hc => injection h with h; subst h; exact .idleHold hp hc
    · next w ws hc => exact .accept w ws hp hc h
  | scanWord =>
    rw [blockStep_scanWord hp, scanWordStep] at h
    split at h
    · next hl => injection h with h; subst h; exact .scanLimit hp hl
    · next hl =>
      rcases State.request_next h with ⟨ha, rfl⟩ | ⟨ha, hr, rfl⟩ | ⟨r, tr, ha, hr, h⟩
      · exact .owed (by simp [State.inPass, State.inScan, hp]) ha
      · exact .waitWord ha hr (.inl ⟨hp, hl⟩)
      · cases r with
        | data v => exact .scanData v tr hp hl ha hr h
        | nonData c => injection h with h; subst h; exact .scanNonData c tr hp hl ha hr
  | scanByte =>
    rw [blockStep_scanByte hp, scanByteStep] at h
    rcases State.request_next h with ⟨ha, rfl⟩ | ⟨ha, hr, rfl⟩ | ⟨r, tr, ha, hr, h⟩
    · exact .owed (by simp [State.inPass, State.inScan, hp]) ha
    · exact .waitByte ha hr hp
    · cases r with
      | data b => injection h with h; subst h; exact .byteData b tr hp ha hr
      | nonData c => injection h with h; subst h; exact .byteNonData c tr hp ha hr
  | recType =>
    rw [blockStep_recType hp, recTypeStep] at h
    rcases State.request_next h with ⟨ha, rfl⟩ | ⟨ha, hr, rfl⟩ | ⟨r, tr, ha, hr, h⟩
    · exact .owed (by simp [State.inPass, State.inRecord, hp]) ha
    · exact .waitWord ha hr (.inr (by simp [State.inRecord, hp]))
    · cases r with
      | data v => exact .syncData v tr hp ha hr h
      | nonData c =>
        injection h with h; subst h
        exact .recordNonData c tr (by simp [State.inRecord, hp]) ha hr
  | recField =>
    rw [blockStep_recField hp, recFieldStep] at h
    rcases State.request_next h with ⟨ha, rfl⟩ | ⟨ha, hr, rfl⟩ | ⟨r, tr, ha, hr, h⟩
    · exact .owed (by simp [State.inPass, State.inRecord, hp]) ha
    · exact .waitWord ha hr (.inr (by simp [State.inRecord, hp]))
    · cases r with
      | data v => exact .fieldData v tr hp ha hr h
      | nonData c =>
        injection h with h; subst h
        exact .recordNonData c tr (by simp [State.inRecord, hp]) ha hr
  | respond =>
    rw [blockStep_respond hp, respondStep] at h
    split at h
    · next hr => injection h with h; subst h; exact .deliver hp hr
    · next hr => injection h with h; subst h; exact .notTaken hp (by simpa using hr)

/-- Every way a move of the environment leads from `s` to a next state. -/
inductive EnvTo (s : State) : Move → State → Prop where
  | offer (c : U32) : EnvTo s (.offer c) { s with commands := s.commands ++ [c] }
  | hostReady (b : Bool) : EnvTo s (.hostReady b) { s with hostReady := b }
  /-- The move reaches the transport, which owes nothing. -/
  | arrive (m : Move) (tr : Transport) : s.transport.feed m = some tr → s.abandoned = none →
      EnvTo s m { s with transport := tr }
  /-- The move reaches the transport, which still has no response for an abandoned request. -/
  | arriveOwed (m : Move) (tr : Transport) (w : Width) : s.transport.feed m = some tr →
      s.abandoned = some w → tr.discard w = .waiting → EnvTo s m { s with transport := tr }
  /-- The response of an abandoned request arrives and is thrown away (R201). -/
  | arriveLate (m : Move) (tr tr' : Transport) (w : Width) (data : Bool) :
      s.transport.feed m = some tr → s.abandoned = some w → tr.discard w = .done tr' data →
      EnvTo s m { s with transport := tr', abandoned := none, alignment := s.alignment.after w data }
  /-- Reset with no request outstanding. -/
  | reset : s.outstanding = none → EnvTo s .reset s.resetBlock
  /-- Reset with a request that has no response (R201). -/
  | resetOwed (w : Width) : s.outstanding = some w → s.transport.discard w = .waiting →
      EnvTo s .reset { s.resetBlock with outstanding := none, abandoned := some w }
  /-- Reset with a request whose response is there (R201). -/
  | resetLate (w : Width) (tr : Transport) (data : Bool) : s.outstanding = some w →
      s.transport.discard w = .done tr data →
      EnvTo s .reset { s.resetBlock with
        outstanding := none, transport := tr, abandoned := none
        alignment := s.alignment.after w data }

/-- All that a move which reaches the transport can answer. -/
theorem feedTransport_next {s t : State} {m : Move} (h : feedTransport m s = .next t) : EnvTo s m t := by
  unfold feedTransport at h
  split at h
  · next tr hf =>
    cases ha : s.abandoned with
    | none =>
      simp only [State.settleAbandoned, ha] at h
      injection h with h; subst h
      have e : ({ s with transport := tr, abandoned := none } : State) = { s with transport := tr } := by
        apply State.ext <;> simp [ha]
      rw [e]
      exact .arrive m tr hf ha
    | some w =>
      simp only [State.settleAbandoned, ha, State.dropResponse] at h
      split at h
      · next hd => injection h with h; subst h; exact .arriveLate m tr _ w _ hf ha hd
      · next hd =>
        injection h with h; subst h
        have e : ({ s with transport := tr, abandoned := some w } : State) =
            { s with transport := tr } := by
          apply State.ext <;> simp [ha]
        rw [e]
        exact .arriveOwed m tr w hf ha hd
      · cases h
  · cases h

/-- The inversion of a move of the environment. -/
theorem envMove_next {s t : State} {m : Move} (hb : m ≠ .block) (h : envMove m s = .next t) :
    EnvTo s m t := by
  cases m with
  | block => exact absurd rfl hb
  | offer c => injection h with h; subst h; exact .offer c
  | hostReady b => injection h with h; subst h; exact .hostReady b
  | token x => exact feedTransport_next h
  | item x => exact feedTransport_next h
  | endStream => exact feedTransport_next h
  | reset =>
    simp only [envMove, doReset] at h
    split at h
    · next ho => injection h with h; subst h; exact .reset ho
    · next w ho =>
      simp only [State.dropResponse] at h
      split at h
      · next hd => injection h with h; subst h; exact .resetLate w _ _ ho hd
      · next hd => injection h with h; subst h; exact .resetOwed w ho hd
      · cases h

/-- The inversion of a step: the block's, or a move of the environment, after the move is taken off the
schedule. -/
theorem step_next_cases {s t : State} (h : step s = .next t) :
    s.config.legal = true ∧
      ((nextMove s = .block ∧ BlockTo s.dropMove t) ∨
        (nextMove s ≠ .block ∧ EnvTo s.dropMove (nextMove s) t)) := by
  obtain ⟨hc, ⟨hm, h⟩ | ⟨hm, h⟩⟩ := step_next h
  · exact ⟨hc, .inl ⟨hm, blockStep_next h⟩⟩
  · exact ⟨hc, .inr ⟨hm, envMove_next hm h⟩⟩

end Sys2Proof.Machine
end

