-- ==== Sys2Proof/Laws/Effects.lean ====
section
/-! SUPPORT. The cases of Laws/Step.lean with every instruction of the block resolved: each constructor names the state
before, the answer of the transport and the state after. Every property of all steps is a case analysis over these. -/

namespace Sys2Proof.Machine

/-- The word in a sync position, or the second word of a frame start, that names a block type (R81). -/
abbrev SyncWord (v : U16) (b : BlockType) : Prop :=
  (v = 0xAA55#16 ∧ b = .normal) ∨ (v = 0xAA56#16 ∧ b = .colorCode)

/-- The state with the last body word of a record read, and a Normal record's angle cleared (R133). -/
def State.lastField (s : State) (tr : Transport) (v : U16) : State :=
  ((s.gotResponse tr).setField s.k v).closeFields

/-- A scan word may be read: phase, limit, no owed response. -/
structure State.ScanReads (s : State) (r : Response U16) (tr : Transport) : Prop where
  phase : s.phase = .scanWord
  below : s.scnt.toNat ≠ s.config.scanLimit
  free : s.abandoned = none
  reply : s.transport.readWord = .answered r tr

/-- A body word is read. -/
structure State.FieldReads (s : State) (v : U16) (tr : Transport) : Prop where
  phase : s.phase = .recField
  free : s.abandoned = none
  reply : s.transport.readWord = .answered (.data v) tr

/-- Every way a step of the block leads from `s` to a next state. -/
inductive Effect (s : State) : State → Prop where
  | idleHold : s.phase = .idle → s.commands = [] → Effect s s
  /-- UPDATE, GET_DETECTION or GET_ALL is accepted (R150, R155). -/
  | acceptPass (w : U32) (ws : List U32) (i : Instr) : s.phase = .idle → s.commands = w :: ws →
      decodeCommand w = i → runsPass i = true →
      Effect s (({ s with commands := ws } : State).acceptPass i)
  /-- READ_REG of a mapped number (R160). -/
  | acceptReg (w : U32) (ws : List U32) (reg v : U16) : s.phase = .idle → s.commands = w :: ws →
      decodeCommand w = .readReg reg → s.register reg = some v →
      Effect s ((({ s with commands := ws } : State).latch (commandOf (encode (.readReg reg)))).respond
        [respHdr .none false, v])
  /-- READ_REG of an unmapped number, or an illegal word (R161, R162). -/
  | acceptBad (w w' : U32) (ws : List U32) : s.phase = .idle → s.commands = w :: ws →
      runsPass (decodeCommand w) = false →
      Effect s ((({ s with commands := ws } : State).latch w').respond [respHdr .none true])
  | scanLimit : s.phase = .scanWord → s.scnt.toNat = s.config.scanLimit →
      Effect s (s.noFrame .noFrameScanLimit)
  | owed : s.inPass = true → s.abandoned ≠ none → Effect s s
  | waitWord : s.abandoned = none → s.transport.readWord = .waiting →
      (s.phase = .scanWord ∧ s.scnt.toNat ≠ s.config.scanLimit ∨ s.inRecord = true) →
      Effect s { s with outstanding := some .word }
  | waitByte : s.abandoned = none → s.transport.readByte = .waiting → s.phase = .scanByte →
      Effect s { s with outstanding := some .byte }
  /-- The idle pair (R115). -/
  | scanIdle (tr : Transport) : s.ScanReads (.data 0x0000#16) tr → s.prev = 0x0000#16 →
      Effect s (((s.gotResponse tr).takeScanWord 0x0000#16).noFrame .noFrameIdle)
  /-- A frame start (R116, R117). -/
  | scanSync (v : U16) (b : BlockType) (tr : Transport) : s.ScanReads (.data v) tr →
      s.prev = 0xAA55#16 → SyncWord v b → Effect s (((s.gotResponse tr).takeScanWord v).synced b)
  /-- An out-of-sync word (R118). -/
  | scanOutOfSync (tr : Transport) : s.ScanReads (.data 0x55AA#16) tr →
      Effect s (({ (s.gotResponse tr).takeScanWord 0x55AA#16 with
        oosCount := s.oosCount + 1#16, phase := .scanByte } : State).emit .outOfSync)
  /-- Any other scan word, or one whose PREV condition fails (R119). -/
  | scanShift (v : U16) (tr : Transport) : s.ScanReads (.data v) tr → v ≠ 0x55AA#16 →
      (v = 0x0000#16 → s.prev ≠ 0x0000#16) →
      (v = 0xAA55#16 ∨ v = 0xAA56#16 → s.prev ≠ 0xAA55#16) →
      Effect s ((s.gotResponse tr).takeScanWord v).shift
  | scanNonData (c : NonData) (tr : Transport) : s.ScanReads (.nonData c) tr →
      Effect s ((s.gotResponse tr).noFrame (.noFrame c))
  /-- The recovery byte (R118). -/
  | byteData (b : U8) (tr : Transport) : s.phase = .scanByte → s.abandoned = none →
      s.transport.readByte = .answered (.data b) tr →
      Effect s ((s.gotResponse tr).realign .byte true).shift
  | byteNonData (c : NonData) (tr : Transport) : s.phase = .scanByte → s.abandoned = none →
      s.transport.readByte = .answered (.nonData c) tr →
      Effect s ((s.gotResponse tr).noFrame (.noFrame c))
  /-- A sync word of a record (R131). -/
  | sync (v : U16) (b : BlockType) (tr : Transport) : s.phase = .recType → s.abandoned = none →
      s.transport.readWord = .answered (.data v) tr → SyncWord v b →
      Effect s ((s.gotResponse tr).beginBody b)
  /-- A bad word in a sync position (R132). -/
  | badSync (v : U16) (tr : Transport) : s.phase = .recType → s.abandoned = none →
      s.transport.readWord = .answered (.data v) tr → v ≠ 0xAA55#16 → v ≠ 0xAA56#16 →
      Effect s ((s.gotResponse tr).abortPass .abortBadSync)
  /-- A body word that is not the last of its record (R133). -/
  | field (v : U16) (k : FieldNo) (tr : Transport) : s.FieldReads v tr → s.k.next s.btype = some k →
      Effect s { (s.gotResponse tr).setField s.k v with k := k }
  /-- The last body word of an accepted record (R137). -/
  | accept (v : U16) (tr : Transport) : s.FieldReads v tr → s.k.next s.btype = none →
      (s.lastField tr v).sum = (s.lastField tr v).fCk → s.i.toNat < s.config.nSlots →
      Effect s (s.lastField tr v).commit.nextRecord
  /-- The last body word of a rejected record (R138). -/
  | reject (v : U16) (tr : Transport) : s.FieldReads v tr → s.k.next s.btype = none →
      (s.lastField tr v).sum ≠ (s.lastField tr v).fCk →
      Effect s (s.lastField tr v).reject.nextRecord
  | recordNonData (c : NonData) (tr : Transport) : s.inRecord = true → s.abandoned = none →
      s.transport.readWord = .answered (.nonData c) tr →
      Effect s ((s.gotResponse tr).abortPass (.abort c))
  | deliver : s.phase = .respond → s.hostReady = true → Effect s s.deliver
  | notTaken : s.phase = .respond → s.hostReady = false → Effect s s

/-- What an accepted command leads to (R152). -/
theorem accept_effect {s t : State} {w : U32} {ws : List U32} (hp : s.phase = .idle)
    (hc : s.commands = w :: ws) (h : exec (decodeCommand w) { s with commands := ws } = .next t) :
    Effect s t := by
  have hd := decodeCommand_eq w
  rw [exec_next] at h
  injection h with h
  repeat' split at hd
  all_goals rw [hd] at h; subst h
  · exact .acceptPass w ws _ hp hc hd rfl
  · exact .acceptPass w ws _ hp hc hd rfl
  · exact .acceptPass w ws _ hp hc hd rfl
  · cases hr : s.register (argField w) with
    | some v =>
      simp only [show State.register { s with commands := ws } (argField w) = some v from hr]
      exact .acceptReg w ws _ v hp hc hd hr
    | none =>
      simp only [show State.register { s with commands := ws } (argField w) = none from hr]
      exact .acceptBad w _ ws hp hc (by rw [hd]; rfl)
  · exact .acceptBad w w ws hp hc (by rw [hd]; rfl)
  · exact .acceptBad w w ws hp hc (by rw [hd]; rfl)

/-- What a scan word leads to (R115 to R119). -/
theorem scanData_effect {s t : State} {v : U16} {tr : Transport} (hr : s.ScanReads (.data v) tr)
    (h : exec (decodeScan v) (s.gotResponse tr) = .next t) : Effect s t := by
  rcases decodeScan_cases v with ⟨hv, hd⟩ | ⟨hv, hd⟩ | ⟨hv, hd⟩ | ⟨hv, hd⟩ | ⟨h0, h1, h2, h3, hd⟩ <;>
    rw [hd, exec_next] at h <;> simp only at h <;> (try subst hv)
  · split at h <;> injection h with h <;> subst h
    · exact .scanIdle tr hr ‹_›
    · exact .scanShift _ tr hr (by decide) (fun _ => ‹_›) (fun h => absurd h (by decide))
  · split at h <;> injection h with h <;> subst h
    · exact .scanSync _ _ tr hr ‹_› (.inl ⟨rfl, rfl⟩)
    · exact .scanShift _ tr hr (by decide) (fun h => absurd h (by decide)) (fun _ => ‹_›)
  · split at h <;> injection h with h <;> subst h
    · exact .scanSync _ _ tr hr ‹_› (.inr ⟨rfl, rfl⟩)
    · exact .scanShift _ tr hr (by decide) (fun h => absurd h (by decide)) (fun _ => ‹_›)
  · injection h with h; subst h; exact .scanOutOfSync tr hr
  · injection h with h; subst h
    exact .scanShift _ tr hr h3 (fun h => absurd h h0) (by rintro (h | h) <;> contradiction)

/-- The effect of a block's step. -/
theorem BlockTo.effect {s t : State} (h : BlockTo s t) : Effect s t := by
  cases h with
  | idleHold a b => exact .idleHold a b
  | accept w ws hp hc h => exact accept_effect hp hc h
  | scanLimit a b => exact .scanLimit a b
  | owed a b => exact .owed a b
  | waitWord a b c => exact .waitWord a b c
  | waitByte a b c => exact .waitByte a b c
  | scanData v tr hp hl ha hr h => exact scanData_effect ⟨hp, hl, ha, hr⟩ h
  | scanNonData c tr hp hl ha hr => exact .scanNonData c tr ⟨hp, hl, ha, hr⟩
  | byteData b tr a d e => exact .byteData b tr a d e
  | byteNonData c tr a b d => exact .byteNonData c tr a b d
  | syncData v tr hp ha hr h =>
    rcases decodeRecord_cases v with ⟨hv, hd⟩ | ⟨hv, hd⟩ | ⟨h1, h2, hd⟩ <;>
      rw [hd, exec_next] at h <;> injection h with h <;> subst h
    · exact .sync v _ tr hp ha hr (.inl ⟨hv, rfl⟩)
    · exact .sync v _ tr hp ha hr (.inr ⟨hv, rfl⟩)
    · exact .badSync v tr hp ha hr h1 h2
  | fieldData v tr hp ha hr h =>
    rcases State.takeField_next h with ⟨k, hk, rfl⟩ | ⟨hk, h⟩
    · exact .field v k tr ⟨hp, ha, hr⟩ hk
    · rcases State.endRecord_next h with ⟨hs, hi, rfl⟩ | ⟨hs, rfl⟩
      · exact .accept v tr ⟨hp, ha, hr⟩ hk (by simpa [State.lastField] using hs) (by simpa using hi)
      · exact .reject v tr ⟨hp, ha, hr⟩ hk (by simpa [State.lastField] using hs)
  | recordNonData c tr a b d => exact .recordNonData c tr a b d
  | deliver a b => exact .deliver a b
  | notTaken a b => exact .notTaken a b

/-- The effect of a step: the block's, or a move of the environment, after the move is taken off the
schedule. -/
theorem step_effect {s t : State} (h : step s = .next t) :
    s.config.legal = true ∧
      ((nextMove s = .block ∧ Effect s.dropMove t) ∨
        (nextMove s ≠ .block ∧ EnvTo s.dropMove (nextMove s) t)) := by
  obtain ⟨hc, ⟨hm, h⟩ | h⟩ := step_next_cases h
  · exact ⟨hc, .inl ⟨hm, h.effect⟩⟩
  · exact ⟨hc, .inr h⟩

/-! ### The last body word -/

/-- The last body word changes the field registers, the transport and the request only. -/
theorem State.lastField_eq (s : State) (tr : Transport) (v : U16) :
    s.lastField tr v =
      { s with
        transport := tr, outstanding := none
        fCk := (s.lastField tr v).fCk, fSig := (s.lastField tr v).fSig, fX := (s.lastField tr v).fX
        fY := (s.lastField tr v).fY, fW := (s.lastField tr v).fW, fH := (s.lastField tr v).fH
        fAng := (s.lastField tr v).fAng } := by
  apply State.ext <;> simp [State.lastField]

end Sys2Proof.Machine
end

