-- ==== Sys2Proof/Laws/PerInstr.lean ====
section
/-! SUPPORT. The family `RowMatch`: the word of an instruction is a word of its row of the opcode table, in the row's
format. One lemma for each constructor. -/

namespace Sys2Proof.Laws

/-- A row of spec/opcode_table.json: its format, and its match and mask columns as numbers. -/
structure TableRow where
  format : Format
  pattern : Nat
  mask : Nat
  deriving DecidableEq, Repr

/-- The row of an instruction, written out from the table. -/
def tableRow : Instr → TableRow
  | .update => ⟨.cmd32, 0x01000000, 0xFFFFFFFF⟩
  | .getDetection _ => ⟨.cmd32, 0x02000000, 0xFFFF0000⟩
  | .getAll => ⟨.cmd32, 0x03000000, 0xFFFFFFFF⟩
  | .readReg _ => ⟨.cmd32, 0x04000000, 0xFFFF0000⟩
  | .illegal _ => ⟨.cmd32, 0x00000000, 0x00000000⟩
  | .scanIdleZero => ⟨.scan16, 0x0000, 0xFFFF⟩
  | .scanSyncNormal => ⟨.scan16, 0xAA55, 0xFFFF⟩
  | .scanSyncColorCode => ⟨.scan16, 0xAA56, 0xFFFF⟩
  | .scanOutOfSync => ⟨.scan16, 0x55AA, 0xFFFF⟩
  | .scanOther _ => ⟨.scan16, 0x0000, 0x0000⟩
  | .recSyncNormal => ⟨.rec16, 0xAA55, 0xFFFF⟩
  | .recSyncColorCode => ⟨.rec16, 0xAA56, 0xFFFF⟩
  | .recSyncBad _ => ⟨.rec16, 0x0000, 0x0000⟩

/-- The number that a word's bits are. -/
def wordValue : CodeWord → Nat
  | .cmd32 word => word.toNat
  | .scan16 word => word.toNat
  | .rec16 word => word.toNat

/-- The word of `i` has the format of its row and the row's fixed bits. -/
def RowMatch.Statement (i : Instr) : Prop :=
  (encode i).format = (tableRow i).format ∧
    wordValue (encode i) &&& (tableRow i).mask = (tableRow i).pattern

/-- A command word whose fixed bits are OPCODE and RSVD. -/
theorem commandWord_and_highMask (op : U8) (arg : U16) :
    (commandWord op arg).toNat &&& 0xFFFF0000 = (commandWord op 0#16).toNat := by
  have h := (and_highMask_iff (commandWord op arg) op).2 ⟨by simp, by simp⟩
  have := congrArg BitVec.toNat h
  simpa only [BitVec.toNat_and, BitVec.reduceToNat] using this

theorem RowMatch.update : RowMatch.Statement .update := ⟨rfl, by decide⟩
theorem RowMatch.getDetection (index : U16) : RowMatch.Statement (.getDetection index) :=
  ⟨rfl, commandWord_and_highMask 0x02#8 index⟩
theorem RowMatch.getAll : RowMatch.Statement .getAll := ⟨rfl, by decide⟩
theorem RowMatch.readReg (reg : U16) : RowMatch.Statement (.readReg reg) :=
  ⟨rfl, commandWord_and_highMask 0x04#8 reg⟩
theorem RowMatch.illegal (word : U32) : RowMatch.Statement (.illegal word) := ⟨rfl, Nat.and_zero _⟩
theorem RowMatch.scanIdleZero : RowMatch.Statement .scanIdleZero := ⟨rfl, by decide⟩
theorem RowMatch.scanSyncNormal : RowMatch.Statement .scanSyncNormal := ⟨rfl, by decide⟩
theorem RowMatch.scanSyncColorCode : RowMatch.Statement .scanSyncColorCode := ⟨rfl, by decide⟩
theorem RowMatch.scanOutOfSync : RowMatch.Statement .scanOutOfSync := ⟨rfl, by decide⟩
theorem RowMatch.scanOther (word : U16) : RowMatch.Statement (.scanOther word) :=
  ⟨rfl, Nat.and_zero _⟩
theorem RowMatch.recSyncNormal : RowMatch.Statement .recSyncNormal := ⟨rfl, by decide⟩
theorem RowMatch.recSyncColorCode : RowMatch.Statement .recSyncColorCode := ⟨rfl, by decide⟩
theorem RowMatch.recSyncBad (word : U16) : RowMatch.Statement (.recSyncBad word) :=
  ⟨rfl, Nat.and_zero _⟩

end Sys2Proof.Laws
end

