-- ==== Sys2Proof/Tests/Slice0.lean ====
section
/-! SUPPORT. Own tests: ill-formed terms are refused, words written out from the encoding tables decode to their rows, one
step for each instruction with the result of the spec's rules and examples, and for every statement with
hypotheses a witness that meets them. -/

namespace Sys2Proof.Tests

open Sys2Proof.Machine

/-! ## WellFormed: ill-formed terms -/

theorem test_illegal_update_word_ill_formed : (Instr.illegal 0x01000000#32).wellFormed = false := by decide
theorem test_illegal_getDetection_word_ill_formed :
    (Instr.illegal 0x0200FFFF#32).wellFormed = false := by decide
theorem test_illegal_getAll_word_ill_formed : (Instr.illegal 0x03000000#32).wellFormed = false := by decide
theorem test_illegal_readReg_word_ill_formed : (Instr.illegal 0x04000008#32).wellFormed = false := by decide
theorem test_scanOther_zero_ill_formed : (Instr.scanOther 0x0000#16).wellFormed = false := by decide
theorem test_scanOther_syncNormal_ill_formed : (Instr.scanOther 0xAA55#16).wellFormed = false := by decide
theorem test_scanOther_colorCode_ill_formed : (Instr.scanOther 0xAA56#16).wellFormed = false := by decide
theorem test_scanOther_outOfSync_ill_formed : (Instr.scanOther 0x55AA#16).wellFormed = false := by decide
theorem test_recSyncBad_normal_ill_formed : (Instr.recSyncBad 0xAA55#16).wellFormed = false := by decide
theorem test_recSyncBad_colorCode_ill_formed : (Instr.recSyncBad 0xAA56#16).wellFormed = false := by decide

/-! ## Decoding: each word from the encoding of its row (30_encoding.md) -/

theorem test_decode_update : decodeTableWord 32 0b00000001000000000000000000000000 = some .update := by decide
theorem test_decode_getDetection :
    decodeTableWord 32 0b00000010000000001000000000000001 = some (.getDetection 0x8001#16) := by decide
theorem test_decode_getAll : decodeTableWord 32 0b00000011000000000000000000000000 = some .getAll := by decide
theorem test_decode_readReg :
    decodeTableWord 32 0b00000100000000000000000000000110 = some (.readReg 6#16) := by decide
/-- RSVD must be 0 (R90, R92). -/
theorem test_decode_illegal_rsvd :
    decodeTableWord 32 0b00000100000000010000000000000110 = some (.illegal 0x04010006#32) := by decide
/-- ARG of UPDATE must be 0 (R92). -/
theorem test_decode_illegal_arg :
    decodeTableWord 32 0b00000001000000000000000000000001 = some (.illegal 0x01000001#32) := by decide
theorem test_decode_scanIdleZero : decodeTableWord 16 0b0000000000000000 = some .scanIdleZero := by decide
theorem test_decode_scanSyncNormal : decodeTableWord 16 0b1010101001010101 = some .scanSyncNormal := by decide
theorem test_decode_scanSyncColorCode :
    decodeTableWord 16 0b1010101001010110 = some .scanSyncColorCode := by decide
theorem test_decode_scanOutOfSync : decodeTableWord 16 0b0101010110101010 = some .scanOutOfSync := by decide
theorem test_decode_scanOther :
    decodeTableWord 16 0b1111111111111111 = some (.scanOther 0xFFFF#16) := by decide
theorem test_decode_recSyncNormal : decode (.rec16 0b1010101001010101#16) = .recSyncNormal := by decide
theorem test_decode_recSyncColorCode : decode (.rec16 0b1010101001010110#16) = .recSyncColorCode := by decide
/-- In a sync position `0x55AA` is BAD (R85). -/
theorem test_decode_recSyncBad : decode (.rec16 0b0101010110101010#16) = .recSyncBad 0x55AA#16 := by decide
theorem test_decode_wrong_width : decodeTableWord 24 0 = none := by decide
theorem test_decode_value_out_of_width :
    decodeBits .rec16 16 0x10000 = .error .valueOutOfWidth := by decide

/-! ## States -/

/-- An idle block with two slots and a scan limit of 4, and the command words and stream given. -/
def idleWith (commands : List U32) (tokens : List Token) : State :=
  { State.resetWith ⟨2, 4⟩ with commands := commands, transport := .oracle tokens }

/-- A scan of an UPDATE before its next word. -/
def scanWith (prev scnt : U16) (tokens : List Token) : State :=
  { idleWith [] tokens with cmdOp := 0x01#8, phase := .scanWord, prev := prev, scnt := scnt }

/-- A scan of an UPDATE before a recovery byte. -/
def byteWith (tokens : List Token) : State :=
  { scanWith 0xFFFF#16 1#16 tokens with phase := .scanByte, cur := 0x55AA#16 }

/-- Record 1 of an UPDATE before its sync word. -/
def syncWith (tokens : List Token) : State :=
  { scanWith 0xAA55#16 2#16 tokens with
    phase := .recType, i := 1#16, nrec := 1#16, nacc := 1#16, tScan := .colorCode }

/-- Record `i` of an UPDATE before body word `k`. -/
def fieldWith (k : FieldNo) (t : BlockType) (i : U16) (tokens : List Token) : State :=
  { scanWith 0xAA55#16 2#16 tokens with
    phase := .recField, k := k, btype := t, tScan := t, i := i, nrec := i, nacc := i }

/-- A block with response words in flight. -/
def respondWith (words : List U16) : State :=
  { idleWith [] [] with phase := .respond, cmdOp := 0x04#8, response := words }

/-- What a test reads from a result. -/
def look {α : Type} (f : State → α) : Result State → Option α
  | .next s => some (f s)
  | .fault _ => none
  | .refused _ => none

/-! ## One step for each instruction -/

/-- R150, R155: the latch, PREV at the sentinel, the scan next. -/
theorem test_update : look (fun t => (t.phase, t.cmdOp, t.prev)) (step (idleWith [0x01000000#32] [])) =
    some (.scanWord, 0x01#8, 0xFFFF#16) := by decide
/-- R157: the index is latched, whatever it is. -/
theorem test_getDetection : look (fun t => (t.phase, t.cmdOp, t.cmdArg))
    (step (idleWith [0x0200FFFF#32] [])) = some (.scanWord, 0x02#8, 0xFFFF#16) := by decide
theorem test_getAll : look (fun t => (t.phase, t.cmdOp, t.commands))
    (step (idleWith [0x03000000#32, 0x01000000#32] [])) = some (.scanWord, 0x03#8, [0x01000000#32]) := by decide
/-- The example of R160, with N_SLOTS = 2. -/
theorem test_readReg : look (fun t => (t.phase, t.response)) (step (idleWith [0x04000007#32] [])) =
    some (.respond, [0x0000#16, 0x0002#16]) := by decide
/-- R161. -/
theorem test_readReg_unmapped : look (·.response) (step (idleWith [0x04000008#32] [])) =
    some [0x0010#16] := by decide
/-- R162. -/
theorem test_illegal : look (fun t => (t.phase, t.response)) (step (idleWith [0x05000000#32] [])) =
    some (.respond, [0x0010#16]) := by decide
/-- R115: two zero words in a row; the answer is the one of the example of R159 without its slots. -/
theorem test_scanIdleZero_idle : look (fun t => (t.status, t.response, t.lastScanWords))
    (step (scanWith 0x0000#16 1#16 [.word 0x0000#16])) = some (0x0002#16, [0x0002#16], 2#16) := by decide
theorem test_scanIdleZero_shift : look (fun t => (t.phase, t.prev))
    (step (scanWith 0x55AA#16 1#16 [.word 0x0000#16])) = some (.scanWord, 0x0000#16) := by decide
theorem test_scanSyncNormal : look (fun t => (t.phase, t.btype, t.scnt))
    (step (scanWith 0xAA55#16 1#16 [.word 0xAA55#16])) = some (.recField, .normal, 2#16) := by decide
theorem test_scanSyncNormal_shift : look (fun t => (t.phase, t.prev))
    (step (scanWith 0xFFFF#16 0#16 [.word 0xAA55#16])) = some (.scanWord, 0xAA55#16) := by decide
theorem test_scanSyncColorCode : look (fun t => (t.phase, t.btype, t.k))
    (step (scanWith 0xAA55#16 1#16 [.word 0xAA56#16])) = some (.recField, .colorCode, .checksum) := by decide
/-- R117: `0xAA56, 0xAA56` is no frame start. -/
theorem test_scanSyncColorCode_shift : look (fun t => (t.phase, t.prev))
    (step (scanWith 0xAA56#16 1#16 [.word 0xAA56#16])) = some (.scanWord, 0xAA56#16) := by decide
theorem test_scanOutOfSync : look (fun t => (t.phase, t.oosCount, t.events))
    (step (scanWith 0xAA55#16 1#16 [.word 0x55AA#16])) = some (.scanByte, 1#16, [.outOfSync]) := by decide
/-- R119: after an out-of-sync step PREV is `0x55AA`. -/
theorem test_scanOutOfSync_byte : look (fun t => (t.phase, t.prev, t.scnt))
    (step (byteWith [.byte 0x77#8])) = some (.scanWord, 0x55AA#16, 1#16) := by decide
/-- V-L1-P5, the stray byte before F1, little-endian: a word read keeps the alignment phase (R45). -/
theorem test_wordRead_keeps_alignment : look (fun t => (t.cur, t.alignment))
    (step { scanWith 0xFFFF#16 0#16 [] with
      transport := .reference ⟨[.byte 0x17#8, .byte 0x55#8, .byte 0xAA#8], true, .little, false⟩
      alignment := .shifted }) = some (0x5517#16, .shifted) := by decide
/-- V-L1-P5: the recovery byte flips it. -/
theorem test_byteRead_flips_alignment : look (fun t => (t.transport, t.alignment))
    (step { byteWith [] with
      transport := .reference ⟨[.byte 0xAA#8, .byte 0xB5#8, .byte 0x00#8], true, .little, false⟩
      alignment := .shifted }) =
    some (.reference ⟨[.byte 0xB5#8, .byte 0x00#8], true, .little, false⟩, .aligned) := by decide
theorem test_scanOther : look (fun t => (t.phase, t.prev, t.cur))
    (step (scanWith 0x0000#16 1#16 [.word 0x1234#16])) = some (.scanWord, 0x1234#16, 0x1234#16) := by decide
theorem test_recSyncNormal : look (fun t => (t.phase, t.btype, t.k))
    (step (syncWith [.word 0xAA55#16])) = some (.recField, .normal, .checksum) := by decide
theorem test_recSyncColorCode : look (fun t => (t.phase, t.btype, t.k))
    (step (syncWith [.word 0xAA56#16])) = some (.recField, .colorCode, .checksum) := by decide
/-- R132: `0x0000` is BAD too; the frame start was ColorCode, so STATUS is `0x0037` (R34). -/
theorem test_recSyncBad : look (fun t => (t.status, t.lastRecords, t.response))
    (step (syncWith [.word 0x0000#16])) = some (0x0037#16, 1#16, [0x0007#16]) := by decide

/-! ## Other steps -/

/-- R112: at the limit nothing is read. -/
theorem test_scan_limit : look (fun t => (t.status, t.transport))
    (step (scanWith 0xAA55#16 4#16 [.word 0xAA55#16])) =
      some (0x0003#16, .oracle [.word 0xAA55#16]) := by decide
/-- The example of R130: the last body word of a record with sum `0x00B5`. -/
theorem test_record_accepted : look (fun t => (t.slots, t.nacc, t.phase))
    (step { fieldWith .height .normal 0#16 [.word 0x000A#16] with
      fCk := 0x00B5#16, fSig := 1#16, fX := 100#16, fY := 50#16, fW := 20#16 }) =
      some ([.present ⟨.normal, 1#16, 100#16, 50#16, 20#16, 10#16, 0#16⟩, .empty], 1#16, .recType) := by decide
/-- R138 and V-L1-S3: a checksum word of `0x00B6`. -/
theorem test_record_rejected : look (fun t => (t.slots, t.cksumFaultCount, t.lastFaultSig, t.events))
    (step { fieldWith .height .normal 0#16 [.word 0x000A#16] with
      fCk := 0x00B6#16, fSig := 1#16, fX := 100#16, fY := 50#16, fW := 20#16 }) =
      some ([.empty, .empty], 1#16, 1#16, [.checksumFault 0#16 1#16]) := by decide
/-- Frame FC: the sum of a ColorCode record wraps to `0x0139` (R140). -/
theorem test_record_sum_wraps : look (·.nacc)
    (step { fieldWith .angle .colorCode 0#16 [.word 0xFFD3#16] with
      fCk := 0x0139#16, fSig := 0x12#16, fX := 0xA0#16, fY := 0x64#16, fW := 0x30#16, fH := 0x20#16 }) =
      some 1#16 := by decide
theorem test_wrong_token : step (scanWith 0xFFFF#16 0#16 [.byte 0#8]) = .refused .tokenDoesNotFit := rfl
theorem test_illegal_configuration : step (State.resetWith ⟨0, 1⟩) = .refused .illegalConfiguration := rfl
/-- A block that meets no record faults only at a slot that does not exist. -/
theorem test_slot_out_of_range :
    step (fieldWith .height .normal 2#16 [.word 0#16]) = .fault .slotOutOfRange := rfl
theorem test_deliver : look (fun t => (t.phase, t.delivered)) (step (respondWith [0x0010#16])) =
    some (.idle, [0x0010#16]) := by decide

/-! ## A table word placed for the next step -/

theorem test_withFetchWord_command :
    step (State.reset.withFetchWord 32 0x04000007) =
      exec (.readReg 7#16) State.reset := rfl
theorem test_withFetchWord_scan : look (fun t => (t.phase, t.prev))
    (step (State.reset.withFetchWord 16 0xAA56)) = some (.scanWord, 0xAA56#16) := by decide

/-! ## Witnesses: each statement with hypotheses has states that meet them -/

/-- The invariant from its parts, for a state that owes nothing to an abandoned request. -/
theorem inv_of {s : State} (h1 : s.config.legal = true := by decide) (h2 : s.RegistersLegal := by decide)
    (h3 : s.PassLegal := by decide) (h4 : s.ScanLegal := by decide) (h5 : s.RecordLegal := by decide)
    (h6 : s.phase = .idle → s.response = [] := by decide)
    (h7 : s.phase = .respond → s.response ≠ [] := by decide)
    (h8 : s.outstanding = some .byte → s.phase = .scanByte := by decide)
    (h9 : s.outstanding = some .word →
      (s.phase = .scanWord ∧ s.scnt.toNat ≠ s.config.scanLimit) ∨ s.inRecord = true := by decide)
    (h10 : s.abandoned = none := by rfl) : s.Inv :=
  ⟨h1, h2, h3, h4, h5, h6, h7, h8, h9, by simp [h10]⟩

/-- An idle block meets the invariant, whatever is offered to it. -/
theorem idleWith_inv (commands : List U32) (tokens : List Token) : (idleWith commands tokens).Inv :=
  have h : (idleWith [] []).Inv := inv_of
  ⟨h.config, h.registers, h.pass, h.scan, h.record, h.ports.1, h.ports.2.1, h.ports.2.2.1, h.ports.2.2.2.1,
    fun _ hw => nomatch hw⟩

/-- O2: well-formed forms at the ends of their operands' ranges. -/
theorem witness_decodeOfEncode :
    (Instr.getDetection 0xFFFF#16).wellFormed = true ∧ (Instr.readReg 0x0000#16).wellFormed = true ∧
      (Instr.illegal 0x00000000#32).wellFormed = true ∧ (Instr.illegal 0xFFFFFFFF#32).wellFormed = true ∧
      (Instr.illegal 0x0200FFFF#32).wellFormed = false ∧ (Instr.scanOther 0xFFFF#16).wellFormed = true ∧
      (Instr.scanOther 0xAA57#16).wellFormed = true ∧ (Instr.recSyncBad 0x0000#16).wellFormed = true ∧
      (Instr.recSyncBad 0xAA54#16).wellFormed = true := by decide

/-- O4: a word for each row, at the ends of the operand's range, and one for none. -/
theorem witness_commandRows :
    0x01000000#32 &&& 0xFFFFFFFF#32 = 0x01000000#32 ∧ 0x02000000#32 &&& 0xFFFF0000#32 = 0x02000000#32 ∧
      0x0200FFFF#32 &&& 0xFFFF0000#32 = 0x02000000#32 ∧ 0x03000000#32 &&& 0xFFFFFFFF#32 = 0x03000000#32 ∧
      0x04000000#32 &&& 0xFFFF0000#32 = 0x04000000#32 ∧ 0x0400FFFF#32 &&& 0xFFFF0000#32 = 0x04000000#32 ∧
      decodeCommand 0x05000000#32 = .illegal 0x05000000#32 := by decide

/-- O5: an illegal word of each kind: OPCODE 0, 5 and 0xFF, RSVD, ARG of UPDATE and of GET_ALL; and a legal one. -/
theorem witness_illegalWords :
    decodeCommand 0x00000000#32 = .illegal 0x00000000#32 ∧ decodeCommand 0x05000000#32 = .illegal 0x05000000#32 ∧
      decodeCommand 0xFF000000#32 = .illegal 0xFF000000#32 ∧ decodeCommand 0x02010000#32 = .illegal 0x02010000#32 ∧
      decodeCommand 0x0100FFFF#32 = .illegal 0x0100FFFF#32 ∧ decodeCommand 0x03000001#32 = .illegal 0x03000001#32 ∧
      decodeCommand 0x02000001#32 ≠ .illegal 0x02000001#32 := by decide

/-- O6: the three places where an instruction is decoded. -/
theorem witness_stepRuns :
    (∃ (s : State) (w : U32) (ws : List U32), s.blockTurn ∧ s.phase = .idle ∧ s.commands = w :: ws) ∧
      (∃ (s : State) (v : U16) (t : Transport), s.blockTurn ∧ s.phase = .scanWord ∧ s.scnt.toNat ≠ s.config.scanLimit ∧
        s.abandoned = none ∧ s.transport.readWord = .answered (.data v) t) ∧
      (∃ (s : State) (v : U16) (t : Transport), s.blockTurn ∧ s.phase = .recType ∧ s.abandoned = none ∧
        s.transport.readWord = .answered (.data v) t) :=
  ⟨⟨idleWith [0x03000000#32] [], _, _, by decide, rfl, rfl⟩,
    ⟨scanWith 0xAA55#16 3#16 [.word 0xAA55#16], _, _, by decide, rfl, by decide, rfl, rfl⟩,
    ⟨syncWith [.word 0x0000#16], _, _, by decide, rfl, rfl, rfl⟩⟩

/-- O9: each kind of command answers a next state. -/
theorem witness_commandFrame :
    (∃ s t : State, exec .getAll s = .next t ∧ runsPass .getAll = true) ∧
      (∃ s t : State, exec (.readReg 0xFFFF#16) s = .next t) ∧ (∃ s t : State, exec (.illegal 0#32) s = .next t) :=
  ⟨⟨State.reset, _, rfl, rfl⟩, ⟨State.reset, _, rfl⟩, ⟨State.reset, _, rfl⟩⟩

/-- O10: PREV is zero, and PREV is not. -/
theorem witness_scanZero : (scanWith 0x0000#16 1#16 []).prev = 0x0000#16 ∧
    (scanWith 0x0001#16 1#16 []).prev ≠ 0x0000#16 := by decide

/-- O11: PREV is `0xAA55`, and PREV is not. -/
theorem witness_frameStart : (scanWith 0xAA55#16 1#16 []).prev = 0xAA55#16 ∧
    (scanWith 0xAA56#16 1#16 []).prev ≠ 0xAA55#16 := by decide

/-- O12: a recovery byte is there. -/
theorem witness_outOfSync : ∃ (s : State) (b : U8) (t : Transport), s.blockTurn ∧ s.phase = .scanByte ∧ s.abandoned = none ∧
    s.transport.readByte = .answered (.data b) t :=
  ⟨byteWith [.byte 0xFF#8], _, _, by decide, rfl, rfl, rfl⟩

/-- O15: each class of scan word answers a next state. -/
theorem witness_scanWordFrame :
    (∃ s t : State, exec .scanIdleZero s = .next t) ∧ (∃ s t : State, exec .scanSyncNormal s = .next t) ∧
      (∃ s t : State, exec .scanSyncColorCode s = .next t) ∧ (∃ s t : State, exec .scanOutOfSync s = .next t) ∧
      (∃ s t : State, exec (.scanOther 1#16) s = .next t) :=
  ⟨⟨scanWith 0x0000#16 1#16 [], _, rfl⟩, ⟨scanWith 0xAA55#16 1#16 [], _, rfl⟩,
    ⟨scanWith 0xAA55#16 1#16 [], _, rfl⟩, ⟨scanWith 0xAA55#16 1#16 [], _, rfl⟩,
    ⟨scanWith 0xAA55#16 1#16 [], _, rfl⟩⟩

/-- O16: at the limit, one word below it, and a recovery byte at the limit. -/
theorem witness_scanLimit :
    (∃ s : State, s.blockTurn ∧ s.phase = .scanWord ∧ s.scnt.toNat = s.config.scanLimit) ∧
      (∃ (s : State) (v : U16) (t : Transport), s.blockTurn ∧ s.phase = .scanWord ∧ s.scnt.toNat ≠ s.config.scanLimit ∧
        s.scnt.toNat + 1 = s.config.scanLimit ∧ s.abandoned = none ∧
        s.transport.readWord = .answered (.data v) t) ∧
      (∃ (s : State) (r : Response U8) (t : Transport), s.blockTurn ∧ s.phase = .scanByte ∧ s.scnt.toNat = s.config.scanLimit ∧ s.abandoned = none ∧
        s.transport.readByte = .answered r t) :=
  ⟨⟨scanWith 0xAA55#16 4#16 [], by decide, rfl, by decide⟩,
    ⟨scanWith 0xAA55#16 3#16 [.word 0x55AA#16], _, _, by decide, rfl, by decide, by decide, rfl, rfl⟩,
    ⟨{ byteWith [.byte 0#8] with scnt := 4#16 }, _, _, by decide, rfl, by decide, rfl, rfl⟩⟩

/-- O17: a word request and a recovery byte request without a value. -/
theorem witness_scanEnds :
    (∃ (s : State) (c : NonData) (tr : Transport), s.blockTurn ∧ s.abandoned = none ∧ s.phase = .scanWord ∧
        s.scnt.toNat ≠ s.config.scanLimit ∧ s.transport.readWord = .answered (.nonData c) tr) ∧
      (∃ (s : State) (c : NonData) (tr : Transport), s.blockTurn ∧ s.abandoned = none ∧ s.phase = .scanByte ∧
        s.transport.readByte = .answered (.nonData c) tr) :=
  ⟨⟨scanWith 0xFFFF#16 0#16 [.nonData .noData], _, _, by decide, rfl, rfl, by decide, rfl⟩,
    ⟨byteWith [.nonData .fault], _, _, by decide, rfl, rfl, rfl⟩⟩

/-- O18: the shortest scan that finds a frame, here with a scan limit of 4. -/
theorem witness_frameStartInARow : ∃ s t : State, s.Inv ∧ s.inScan = true ∧ step s = .next t ∧
    t.inRecord = true :=
  ⟨scanWith 0xAA55#16 1#16 [.word 0xAA56#16], _,
    inv_of, by decide, rfl, by decide⟩

/-- O20: each sync position word answers a next state. -/
theorem witness_syncFrame :
    (∃ s t : State, exec .recSyncNormal s = .next t) ∧ (∃ s t : State, exec .recSyncColorCode s = .next t) ∧
      (∃ s t : State, exec (.recSyncBad 0#16) s = .next t) :=
  ⟨⟨syncWith [], _, rfl⟩, ⟨syncWith [], _, rfl⟩, ⟨syncWith [], _, rfl⟩⟩

/-- O21: Normal records: an accepted one that is not the last, a rejected one that is. -/
theorem witness_normalRecord :
    (∃ (s : State) (ck sig x y w h : U16) (rest : List Token), s.config.legal = true ∧ s.schedule = [] ∧ s.abandoned = none ∧
        s.phase = .recField ∧ s.k = .checksum ∧ s.btype = .normal ∧ s.i.toNat < s.config.nSlots ∧
        s.transport = .oracle (.word ck :: .word sig :: .word x :: .word y :: .word w :: .word h :: rest) ∧
        (⟨.normal, sig, x, y, w, h, 0#16⟩ : Detection).sumMod = ck.toNat ∧
        s.i.toNat + 1 < s.config.nSlots) ∧
      (∃ (s : State) (ck sig x y w h : U16) (rest : List Token), s.config.legal = true ∧ s.schedule = [] ∧ s.abandoned = none ∧
        s.phase = .recField ∧ s.k = .checksum ∧ s.btype = .normal ∧ s.i.toNat < s.config.nSlots ∧
        s.transport = .oracle (.word ck :: .word sig :: .word x :: .word y :: .word w :: .word h :: rest) ∧
        (⟨.normal, sig, x, y, w, h, 0#16⟩ : Detection).sumMod ≠ ck.toNat ∧
        s.i.toNat + 1 = s.config.nSlots) :=
  ⟨⟨fieldWith .checksum .normal 0#16 [.word 0xB5#16, .word 1#16, .word 100#16, .word 50#16, .word 20#16, .word 10#16],
      _, _, _, _, _, _, _, rfl, rfl, rfl, rfl, rfl, rfl, by decide, rfl, by decide, by decide⟩,
    ⟨fieldWith .checksum .normal 1#16 [.word 0xB6#16, .word 1#16, .word 100#16, .word 50#16, .word 20#16, .word 10#16],
      _, _, _, _, _, _, _, rfl, rfl, rfl, rfl, rfl, rfl, by decide, rfl, by decide, by decide⟩⟩

/-- O22: ColorCode records, with the words of frame FC (95_test_vectors.md) and with its checksum changed. -/
theorem witness_colorCodeRecord :
    (∃ (s : State) (ck sig x y w h ang : U16) (rest : List Token), s.config.legal = true ∧ s.schedule = [] ∧ s.abandoned = none ∧
        s.phase = .recField ∧ s.k = .checksum ∧ s.btype = .colorCode ∧ s.i.toNat < s.config.nSlots ∧
        s.transport = .oracle (.word ck :: .word sig :: .word x :: .word y :: .word w :: .word h :: .word ang :: rest) ∧
        (⟨.colorCode, sig, x, y, w, h, ang⟩ : Detection).sumMod = ck.toNat ∧
        s.i.toNat + 1 = s.config.nSlots) ∧
      (∃ (s : State) (ck sig x y w h ang : U16) (rest : List Token), s.config.legal = true ∧ s.schedule = [] ∧ s.abandoned = none ∧
        s.phase = .recField ∧ s.k = .checksum ∧ s.btype = .colorCode ∧ s.i.toNat < s.config.nSlots ∧
        s.transport = .oracle (.word ck :: .word sig :: .word x :: .word y :: .word w :: .word h :: .word ang :: rest) ∧
        (⟨.colorCode, sig, x, y, w, h, ang⟩ : Detection).sumMod ≠ ck.toNat ∧
        s.i.toNat + 1 < s.config.nSlots) :=
  ⟨⟨fieldWith .checksum .colorCode 1#16 [.word 0x139#16, .word 0x12#16, .word 0xA0#16, .word 0x64#16, .word 0x30#16,
        .word 0x20#16, .word 0xFFD3#16],
      _, _, _, _, _, _, _, _, rfl, rfl, rfl, rfl, rfl, rfl, by decide, rfl, by decide, by decide⟩,
    ⟨fieldWith .checksum .colorCode 0#16 [.word 0x138#16, .word 0x12#16, .word 0xA0#16, .word 0x64#16, .word 0x30#16,
        .word 0x20#16, .word 0xFFD3#16],
      _, _, _, _, _, _, _, _, rfl, rfl, rfl, rfl, rfl, rfl, by decide, rfl, by decide, by decide⟩⟩

/-- O23: a Normal record. -/
theorem witness_checksum : (fieldWith .height .normal 0#16 []).btype = .normal := rfl

/-- O24: a state whose fields sum to the checksum word, and a change of its angle. -/
theorem witness_oneChanged : ∃ (s : State) (k : FieldNo) (v : U16), s.sum = s.fCk ∧ s.setField k v ≠ s :=
  ⟨State.reset, .angle, 0x8000#16, by decide, by decide⟩

/-- O25: a record's word requests without a value, in both phases. -/
theorem witness_recordAborts :
    (∃ (s : State) (c : NonData) (tr : Transport), s.blockTurn ∧ s.abandoned = none ∧ s.inRecord = true ∧
        s.transport.readWord = .answered (.nonData c) tr ∧ s.phase = .recType) ∧
      (∃ (s : State) (c : NonData) (tr : Transport), s.blockTurn ∧ s.abandoned = none ∧ s.inRecord = true ∧
        s.transport.readWord = .answered (.nonData c) tr ∧ s.phase = .recField) :=
  ⟨⟨syncWith [.nonData .eos], _, _, by decide, rfl, by decide, rfl, rfl⟩,
    ⟨fieldWith .angle .colorCode 1#16 [.nonData .fault], _, _, by decide, rfl, by decide, rfl, rfl⟩⟩

/-- O26: a scan that meets the invariant. -/
theorem witness_finish : ∃ s : State, s.Inv ∧ s.inScan = true :=
  ⟨scanWith 0xFFFF#16 0#16 [], inv_of, by decide⟩

/-- O27: a state for each command that runs a pass, and register numbers at the end of the map. -/
theorem witness_responseLengths :
    (∃ s : State, s.Inv ∧ s.cmdOp = 0x01#8) ∧ (∃ s : State, s.Inv ∧ s.cmdOp = 0x02#8) ∧
      (∃ s : State, s.Inv ∧ s.cmdOp = 0x03#8) ∧
      (∃ (s : State) (t : State), s.Inv ∧ exec (.readReg 7#16) s = .next t) ∧
      (∃ (s : State) (t : State), s.Inv ∧ exec (.readReg 8#16) s = .next t) ∧
      (∃ (s : State) (t : State), s.Inv ∧ exec (.illegal 0#32) s = .next t) :=
  ⟨⟨scanWith 0#16 0#16 [], inv_of, rfl⟩,
    ⟨{ scanWith 0#16 0#16 [] with cmdOp := 0x02#8 }, inv_of, rfl⟩,
    ⟨{ scanWith 0#16 0#16 [] with cmdOp := 0x03#8 }, inv_of, rfl⟩,
    ⟨idleWith [] [], _, idleWith_inv _ _, rfl⟩, ⟨idleWith [] [], _, idleWith_inv _ _, rfl⟩,
    ⟨idleWith [] [], _, idleWith_inv _ _, rfl⟩⟩

/-- O28: the last index in range and the first out of range. -/
theorem witness_slotRecord :
    (∃ (s : State) (index : U16), s.config.nSlots ≤ index.toNat ∧ index.toNat = s.config.nSlots) ∧
      (∃ (s : State) (index : U16) (slot : Slot), index.toNat < s.config.nSlots ∧
        s.slots[index.toNat]? = some slot ∧ index.toNat + 1 = s.config.nSlots) :=
  ⟨⟨idleWith [] [], 2#16, by decide⟩, ⟨idleWith [] [], 1#16, .empty, by decide⟩⟩

/-- O30: a step into RESPOND with ILLEGAL set, and one without. -/
theorem witness_headers :
    (∃ (s t : State) (hdr : U16), step s = .next t ∧ s.phase ≠ .respond ∧ t.phase = .respond ∧ t.response.head? = some hdr ∧
        hdr.getLsbD 4 = true) ∧
      (∃ (s t : State) (hdr : U16), step s = .next t ∧ s.phase ≠ .respond ∧ t.phase = .respond ∧ t.response.head? = some hdr ∧
        hdr.getLsbD 4 = false) :=
  ⟨⟨idleWith [0x00000000#32] [], _, _, rfl, by decide, by decide, rfl, by decide⟩,
    ⟨scanWith 0xFFFF#16 4#16 [], _, _, rfl, by decide, by decide, rfl, by decide⟩⟩

/-- O31: words in flight to a host that takes them and to one that does not. -/
theorem witness_delivery :
    (∃ s : State, s.config.legal = true ∧ s.schedule = [] ∧ s.phase = .respond ∧ s.response ≠ [] ∧
        s.hostReady = true) ∧
      (∃ s : State, s.blockTurn ∧ s.phase = .respond ∧ s.hostReady = false) :=
  ⟨⟨respondWith [0#16, 1#16], rfl, rfl, rfl, by decide, rfl⟩,
    ⟨{ respondWith [0#16] with hostReady := false }, by decide, rfl, rfl⟩⟩

/-- O32: an unanswered request of each kind. -/
theorem witness_unanswered :
    (∃ s : State, s.config.legal = true ∧ s.schedule = [] ∧ s.abandoned = none ∧ s.phase = .scanWord ∧
        s.scnt.toNat ≠ s.config.scanLimit ∧ s.transport.readWord = .waiting) ∧
      (∃ s : State, s.config.legal = true ∧ s.schedule = [] ∧ s.abandoned = none ∧ s.inRecord = true ∧
        s.transport.readWord = .waiting) ∧
      (∃ s : State, s.config.legal = true ∧ s.schedule = [] ∧ s.abandoned = none ∧ s.phase = .scanByte ∧
        s.transport.readByte = .waiting) :=
  ⟨⟨scanWith 0xFFFF#16 3#16 [], rfl, rfl, rfl, rfl, by decide, rfl⟩,
    ⟨syncWith [], rfl, rfl, rfl, by decide, rfl⟩, ⟨byteWith [], rfl, rfl, rfl, rfl, rfl⟩⟩

/-- O33: a hold of each kind. -/
theorem witness_holds :
    (∃ s t : State, s.Inv ∧ s.blockTurn ∧ step s = .next t ∧ t.phase = s.phase ∧ t.transport = s.transport ∧
        t.response = s.response ∧ t.commands = s.commands ∧ s.phase = .idle) ∧
      (∃ s t : State, s.Inv ∧ s.blockTurn ∧ step s = .next t ∧ t.phase = s.phase ∧ t.transport = s.transport ∧
        t.response = s.response ∧ t.commands = s.commands ∧ s.phase = .respond) ∧
      (∃ s t : State, s.Inv ∧ s.blockTurn ∧ step s = .next t ∧ t.phase = s.phase ∧ t.transport = s.transport ∧
        t.response = s.response ∧ t.commands = s.commands ∧ s.inPass = true) :=
  ⟨⟨idleWith [] [], _, idleWith_inv _ _, by decide, rfl, rfl, rfl, rfl, rfl, rfl⟩,
    ⟨{ respondWith [0#16] with hostReady := false }, _, inv_of, by decide, rfl, rfl, rfl, rfl, rfl, rfl⟩,
    ⟨byteWith [], _, inv_of, by decide, rfl, rfl, rfl, rfl, rfl, by decide⟩⟩

/-- O34: a command offered during a scan. -/
theorem witness_commandsWait :
    (∃ s t : State, step s = .next t ∧ nextMove s = .block ∧ s.phase ≠ .idle) ∧
      (∃ (s t : State) (c : U32), step s = .next t ∧ nextMove s = .offer c ∧ s.phase ≠ .idle) :=
  ⟨⟨{ scanWith 0xFFFF#16 0#16 [] with commands := [0x03000000#32] }, _, rfl, rfl, by decide⟩,
    ⟨{ scanWith 0xFFFF#16 0#16 [] with schedule := [.offer 0x01000000#32] }, _, _, rfl, rfl, by decide⟩⟩

/-- O35: a reset in the middle of a scan. -/
theorem witness_reset : ∃ s t : State, nextMove s = .reset ∧ step s = .next t ∧ s.inScan = true :=
  ⟨{ scanWith 0xAA55#16 1#16 [] with schedule := [.reset] }, _, rfl, rfl, by decide⟩

/-- O36: a reset with no request outstanding, with one that has no response, and with one that has. -/
theorem witness_resetAbandons :
    (∃ s : State, s.config.legal = true ∧ nextMove s = .reset ∧ s.outstanding = none) ∧
      (∃ (s : State) (w : Width), s.config.legal = true ∧ nextMove s = .reset ∧ s.outstanding = some w ∧
        s.transport.discard w = .waiting) ∧
      (∃ (s : State) (w : Width) (tr : Transport) (data : Bool), s.config.legal = true ∧ nextMove s = .reset ∧
        s.outstanding = some w ∧ s.transport.discard w = .done tr data) :=
  ⟨⟨{ idleWith [] [] with schedule := [.reset] }, rfl, rfl, rfl⟩,
    ⟨{ scanWith 0#16 0#16 [] with schedule := [.reset], outstanding := some .word }, _, rfl, rfl, rfl, rfl⟩,
    ⟨{ byteWith [.byte 1#8] with schedule := [.reset], outstanding := some .byte }, _, _, _, rfl, rfl, rfl, rfl⟩⟩

/-- O37: an abandoned request whose response arrives (the second byte of a word, in the reference transport), one whose
response does not (its first byte), and at the oracle a word, a byte, no value. -/
theorem witness_lateResponse :
    (∃ (s : State) (tr tr' : Transport) (w : Width) (data : Bool), s.config.legal = true ∧
        s.transport.feed (nextMove s) = some tr ∧ s.abandoned = some w ∧ tr.discard w = .done tr' data) ∧
      (∃ (s : State) (tr : Transport) (w : Width), s.config.legal = true ∧
        s.transport.feed (nextMove s) = some tr ∧ s.abandoned = some w ∧ tr.discard w = .waiting) ∧
      (∃ (s : State) (v : U16), s.config.legal = true ∧ s.transport = .oracle [] ∧
        nextMove s = .token (.word v) ∧ s.abandoned = some .word) ∧
      (∃ (s : State) (b : U8), s.config.legal = true ∧ s.transport = .oracle [] ∧
        nextMove s = .token (.byte b) ∧ s.abandoned = some .byte) ∧
      (∃ (s : State) (c : NonData) (w : Width), s.config.legal = true ∧ s.transport = .oracle [] ∧
        nextMove s = .token (.nonData c) ∧ s.abandoned = some w) :=
  ⟨⟨{ idleWith [] [] with
      transport := .reference ⟨[.byte 1#8], false, .big, false⟩
      schedule := [.item (.byte 2#8)], abandoned := some .word }, _, _, _, _, rfl, rfl, rfl, rfl⟩,
    ⟨{ idleWith [] [] with
      transport := .reference ⟨[], false, .big, false⟩
      schedule := [.item (.byte 1#8)], abandoned := some .word }, _, _, rfl, rfl, rfl, rfl⟩,
    ⟨{ idleWith [] [] with schedule := [.token (.word 7#16)], abandoned := some .word }, _, rfl, rfl, rfl, rfl⟩,
    ⟨{ idleWith [] [] with schedule := [.token (.byte 7#8)], abandoned := some .byte }, _, rfl, rfl, rfl, rfl⟩,
    ⟨{ idleWith [] [] with schedule := [.token (.nonData .eos)], abandoned := some .byte }, _, _,
      rfl, rfl, rfl, rfl⟩⟩

/-- O38: the smallest and the largest parameters. -/
theorem witness_legalConfigurations : (⟨1, 1⟩ : Config).legal = true ∧ (⟨65535, 65535⟩ : Config).legal = true ∧
    (⟨0, 1⟩ : Config).legal = false ∧ (⟨1, 65536⟩ : Config).legal = false := by decide

/-- O39, O44: steps from states of the invariant, of the block and of its environment. -/
theorem witness_steps :
    (∃ s t : State, s.Inv ∧ step s = .next t ∧ nextMove s = .block) ∧
      (∃ s t : State, s.Inv ∧ step s = .next t ∧ nextMove s = .reset) :=
  ⟨⟨scanWith 0xAA55#16 1#16 [.word 0xAA55#16], _, inv_of, rfl, rfl⟩,
    ⟨{ byteWith [] with outstanding := some .byte, schedule := [.reset] }, _, inv_of, rfl, rfl⟩⟩

/-- O40: a byte for the scan's last word request, a word for a recovery byte request, a byte for a record's word
request, and a step that is not refused. -/
theorem witness_refusal :
    (∃ (s : State) (r : Refusal), s.Inv ∧ nextMove s = .block ∧ s.phase = .scanWord ∧
        s.scnt.toNat + 1 = s.config.scanLimit ∧ step s = .refused r) ∧
      (∃ (s : State) (r : Refusal), s.Inv ∧ nextMove s = .block ∧ s.phase = .scanByte ∧ step s = .refused r) ∧
      (∃ (s : State) (r : Refusal), s.Inv ∧ nextMove s = .block ∧ s.inRecord = true ∧ step s = .refused r) ∧
      (∃ s t : State, s.Inv ∧ nextMove s = .block ∧ step s = .next t) :=
  ⟨⟨scanWith 0xFFFF#16 3#16 [.byte 0#8], _, inv_of, rfl, rfl, rfl, rfl⟩,
    ⟨byteWith [.word 0#16], _, inv_of, rfl, rfl, rfl⟩,
    ⟨syncWith [.byte 0#8], _, inv_of, rfl, rfl, rfl⟩,
    ⟨idleWith [] [], _, idleWith_inv _ _, rfl, rfl⟩⟩

/-- O42: a step that writes the last slot. -/
theorem witness_slotWritten : ∃ s t : State, step s = .next t ∧ nextMove s ≠ .reset ∧ t.slots ≠ s.slots :=
  ⟨fieldWith .height .normal 1#16 [.word 0#16], _, rfl, by decide, by decide⟩

/-- O43: a PRESENT slot in the last place, in a step that writes it again. -/
theorem witness_present : ∃ (s t : State) (d : Detection), step s = .next t ∧ nextMove s ≠ .reset ∧ s.slots[1]? = some (.present d) :=
  ⟨{ fieldWith .height .normal 1#16 [.word 0#16] with
      slots := [.empty, .present ⟨.colorCode, 9#16, 9#16, 9#16, 9#16, 9#16, 9#16⟩] }, _, _, rfl, by decide, rfl⟩

/-- O45: a step that appends an event. -/
theorem witness_event : ∃ s t : State, step s = .next t ∧ nextMove s ≠ .reset ∧ t.events ≠ s.events :=
  ⟨scanWith 0xAA55#16 1#16 [.word 0x55AA#16], _, rfl, by decide, by decide⟩

/-- O46: steps that change each group of registers. -/
theorem witness_registers :
    (∃ s t : State, step s = .next t ∧ nextMove s ≠ .reset ∧ t.status ≠ s.status) ∧
      (∃ s t : State, step s = .next t ∧ nextMove s ≠ .reset ∧ t.oosCount ≠ s.oosCount) ∧
      (∃ s t : State, step s = .next t ∧ nextMove s ≠ .reset ∧ t.cksumFaultCount ≠ s.cksumFaultCount) :=
  ⟨⟨scanWith 0xFFFF#16 4#16 [], _, rfl, by decide, by decide⟩,
    ⟨scanWith 0xFFFF#16 3#16 [.word 0x55AA#16], _, rfl, by decide, by decide⟩,
    ⟨fieldWith .angle .colorCode 1#16 [.word 1#16], _, rfl, by decide, by decide⟩⟩

/-- Frame F1 (95_test_vectors.md) with the second record's sync position BAD. -/
def frameStream : List Token :=
  [.word 0xAA55#16, .word 0xAA55#16, .word 0xB5#16, .word 1#16, .word 100#16, .word 50#16, .word 20#16, .word 10#16,
    .word 0x0000#16]

/-- O47: a GET_ALL of an idle block with a frame in front of it. -/
theorem witness_passRuns : ∃ (s u : State) (i : Instr) (ts : List Token) (e : PassEnd) (words : List U16),
    s.Inv ∧ s.phase = .idle ∧ s.schedule = [] ∧ s.abandoned = none ∧ s.transport = .oracle ts ∧
      exec i s = .next u ∧ passRun s.config s.visible ts = some e ∧ passResponseOf i e = some words ∧
      e.code = .abortBadSync ∧ words.length = 15 :=
  ⟨idleWith [] frameStream, _, .getAll, frameStream, _, _, idleWith_inv _ _, rfl, rfl, rfl, rfl, rfl, rfl, rfl,
    by decide, by decide⟩

/-- O48: the same at the command port, for each command that runs a pass. -/
theorem witness_passCompletes (word : U32) (h : word ∈ [0x01000000#32, 0x0200FFFF#32, 0x03000000#32]) :
    ∃ (s : State) (ts : List Token) (e : PassEnd) (words : List U16),
      s.Inv ∧ s.phase = .idle ∧ s.schedule = [] ∧ s.abandoned = none ∧ s.hostReady = true ∧
        s.commands = [word] ∧ s.transport = .oracle ts ∧ passRun s.config s.visible ts = some e ∧
        passResponseOf (decodeCommand word) e = some words := by
  simp only [List.mem_cons, List.not_mem_nil, or_false] at h
  rcases h with rfl | rfl | rfl
  all_goals
    exact ⟨idleWith [_] frameStream, frameStream, _, _, idleWith_inv _ _, rfl, rfl, rfl, rfl, rfl, rfl, rfl, rfl⟩

/-- O49: a GET_DETECTION that meets NODATA. -/
theorem witness_noData : ∃ (s : State) (word : U32) (more : List U32) (ts : List Token),
    s.config.legal = true ∧ s.phase = .idle ∧ s.schedule = [] ∧ s.abandoned = none ∧
      s.commands = word :: more ∧ runsPass (decodeCommand word) = true ∧
      s.transport = .oracle (.nonData .noData :: ts) :=
  ⟨idleWith [0x02000001#32] [.nonData .noData], _, _, _, rfl, rfl, rfl, rfl, rfl, by decide, rfl⟩

/-- O50: two idle states that differ in a working register, K and the latch. -/
theorem witness_working : ∃ s t : State, s.phase = .idle ∧ s.forgetWorking = t.forgetWorking ∧ s ≠ t :=
  ⟨idleWith [0x01000000#32] [],
    { idleWith [0x01000000#32] [] with prev := 0xAA55#16, k := .angle, cmdArg := 3#16 }, by decide⟩

/-- O51: a scan that starts with another sentinel. -/
theorem witness_sentinel : ∃ (s : State) (p : U16), s.phase = .scanWord ∧ s.prev ≠ 0x0000#16 ∧
    s.prev ≠ 0xAA55#16 ∧ p ≠ 0x0000#16 ∧ p ≠ 0xAA55#16 ∧ p ≠ s.prev :=
  ⟨scanWith 0xFFFF#16 0#16 [.word 0xAA55#16], 0x0001#16, by decide⟩

/-- A block of one slot, idle, with frame F1 in front of it, its checksum word as given. -/
def oneSlot (ck : U16) : State :=
  { State.resetWith ⟨1, 4⟩ with
    transport := .oracle [.word 0xAA55#16, .word 0xAA55#16, .word ck, .word 1#16, .word 100#16, .word 50#16, .word 20#16,
      .word 10#16] }

theorem oneSlot_inv (ck : U16) : (oneSlot ck).Inv :=
  have h : (State.resetWith ⟨1, 4⟩).Inv := inv_of
  ⟨h.config, h.registers, h.pass, h.scan, h.record, h.ports.1, h.ports.2.1, h.ports.2.2.1, h.ports.2.2.2.1,
    fun _ hw => nomatch hw⟩

/-- O52: a pass that rejects its only record. -/
theorem witness_passRejects : ∃ (s u t : State) (i : Instr), s.Inv ∧ s.phase = .idle ∧ runsPass i = true ∧
    exec i s = .next u ∧ PassReaches u t ∧ t.phase = .respond ∧
    t.events = s.events ++ [.checksumFault 0#16 1#16] ∧ t.lastRecords = 1#16 :=
  ⟨oneSlot 0xB6#16, _, _, .update, oneSlot_inv _, rfl, rfl, rfl,
    .step (.step (.step (.step (.step (.step (.step (.step .start
      rfl (by decide) rfl) rfl (by decide) rfl) rfl (by decide) rfl) rfl (by decide) rfl) rfl (by decide) rfl)
      rfl (by decide) rfl) rfl (by decide) rfl) rfl (by decide) rfl,
    by decide, by decide, by decide⟩

/-- O53: a pass that accepts its only record. -/
theorem witness_passAccepts : ∃ (s u t : State) (i : Instr), s.Inv ∧ s.phase = .idle ∧ runsPass i = true ∧
    exec i s = .next u ∧ PassReaches u t ∧ t.phase = .respond ∧ t.events = s.events ∧
    t.lastRecords = 1#16 ∧ t.lastAccepted = 1#16 :=
  ⟨oneSlot 0xB5#16, _, _, .update, oneSlot_inv _, rfl, rfl, rfl,
    .step (.step (.step (.step (.step (.step (.step (.step .start
      rfl (by decide) rfl) rfl (by decide) rfl) rfl (by decide) rfl) rfl (by decide) rfl) rfl (by decide) rfl)
      rfl (by decide) rfl) rfl (by decide) rfl) rfl (by decide) rfl,
    by decide, by decide, by decide, by decide⟩

/-- O55: the queues that hold less than a word. -/
theorem witness_shortQueue :
    (∃ short : List QueueItem, short = []) ∧ (∃ (short : List QueueItem) (b : U8), short = [.byte b]) :=
  ⟨⟨[], rfl⟩, ⟨[.byte 0xFF#8], _, rfl⟩⟩

/-- O56: a word read of the sender's words, aligned and not, and a byte read. -/
theorem witness_dataReads :
    (∃ (t : RefTransport) (v : U16) (tr : Transport) (words : List U16), t.readWord = .answered (.data v) tr ∧
        t.framed .aligned words) ∧
      (∃ (t : RefTransport) (v : U16) (tr : Transport) (words : List U16), t.readWord = .answered (.data v) tr ∧
        t.framed .shifted words) ∧
      (∃ (t : RefTransport) (b : U8) (tr : Transport) (words : List U16), t.readByte = .answered (.data b) tr ∧
        t.framed .shifted words) :=
  ⟨⟨⟨[.byte 1#8, .byte 2#8], false, .big, false⟩, _, _, [0x0102#16], rfl, by decide⟩,
    ⟨⟨[.byte 2#8, .byte 3#8, .byte 4#8], false, .big, false⟩, _, _, [0x0102#16, 0x0304#16], rfl, by decide⟩,
    ⟨⟨[.byte 1#8], false, .little, false⟩, _, _, [0x0102#16], rfl, by decide⟩⟩

/-- O60: the three steps that take a byte (the recovery byte, a byte that is there at a reset, the late byte of an
abandoned request), and a step that takes a word. -/
theorem witness_alignment :
    (∃ s t : State, step s = .next t ∧ nextMove s = .block ∧ ByteTaken s t) ∧
      (∃ s t : State, step s = .next t ∧ nextMove s = .reset ∧ ByteTaken s t) ∧
      (∃ s t : State, step s = .next t ∧ nextMove s = .token (.byte 7#8) ∧ ByteTaken s t) ∧
      (∃ s t : State, step s = .next t ∧ t.scnt = s.scnt + 1#16 ∧ ¬ ByteTaken s t) :=
  ⟨⟨byteWith [.byte 7#8], _, rfl, rfl, 7#8, .inl ⟨rfl, rfl, rfl, rfl⟩⟩,
    ⟨{ byteWith [.byte 7#8] with schedule := [.reset], outstanding := some .byte }, _, rfl, rfl, 7#8,
      .inr (.inl ⟨rfl, rfl, rfl⟩)⟩,
    ⟨{ idleWith [] [] with schedule := [.token (.byte 7#8)], abandoned := some .byte }, _, rfl, rfl, 7#8,
      .inr (.inr ⟨_, rfl, rfl, rfl⟩)⟩,
    ⟨scanWith 0xFFFF#16 0#16 [.word 7#16], _, rfl, rfl, by
      rintro ⟨_, ⟨_, h, _⟩ | ⟨h, _⟩ | ⟨_, h, _⟩⟩ <;> cases h⟩⟩

/-- O60: the recovery byte of the sender's misaligned words, in a queue that is framed. -/
theorem witness_framed : ∃ (s t : State) (words : List U16), step s = .next t ∧
    (∀ x, nextMove s ≠ .item x) ∧ s.framed words :=
  ⟨{ byteWith [] with
      transport := .reference ⟨[.byte 0xAA#8, .byte 0xB5#8, .byte 0x00#8], true, .little, false⟩
      alignment := .shifted },
    _, [0xAA55#16, 0x00B5#16], rfl,
    (fun _ => by simp [nextMove, byteWith, scanWith, idleWith, State.resetWith]), ⟨_, rfl, by decide⟩⟩

end Sys2Proof.Tests
end

/-! PROOFS. What may change the detection buffer (R29): the commit of an accepted record, and nothing else short
of reset. -/

namespace Sys2Proof.Machine

/-! ### The last body word leaves what a commit reads and counts (R133) -/

@[simp] theorem State.lastField_i (s : State) (tr : Transport) (v : U16) :
    (s.lastField tr v).i = s.i := by simp [State.lastField]
@[simp] theorem State.lastField_btype (s : State) (tr : Transport) (v : U16) :
    (s.lastField tr v).btype = s.btype := by simp [State.lastField]
@[simp] theorem State.lastField_nacc (s : State) (tr : Transport) (v : U16) :
    (s.lastField tr v).nacc = s.nacc := by simp [State.lastField]
@[simp] theorem State.lastField_slots (s : State) (tr : Transport) (v : U16) :
    (s.lastField tr v).slots = s.slots := by simp [State.lastField]

/-! ### Who writes the buffer -/

/-- SUM of the field registers is the sum of their Detection's fields (R134). -/
theorem State.sum_toNat (s : State) : s.sum.toNat = s.detection.sumMod := by
  simp [State.sum, State.detection, Detection.sumMod, BitVec.toNat_add]

/-- No move of the environment but reset writes the buffer (R28, R46). -/
theorem EnvTo.slots_eq {s t : State} {m : Move} (h : EnvTo s m t) (hm : m ≠ .reset) :
    t.slots = s.slots := by
  cases h with
  | reset | resetOwed | resetLate => exact absurd rfl hm
  | offer | hostReady | arrive | arriveOwed | arriveLate => rfl

/-- A step of the block writes the buffer only where it accepts a record (R29, R137). -/
theorem Effect.slots_eq_or_accept {s t : State} (h : Effect s t) :
    t.slots = s.slots ∨
      ∃ v tr, s.FieldReads v tr ∧ (s.lastField tr v).sum = (s.lastField tr v).fCk ∧
        t = (s.lastField tr v).commit.nextRecord := by
  cases h with
  | accept v tr hr _ hs _ => exact .inr ⟨v, tr, hr, hs, rfl⟩
  | _ => exact .inl (by simp)

/-- Settles O42: a step that changes the buffer is the block's, and of its effects only an accepted record does;
the Detection written is the one of the field registers, whose SUM was compared with F_CK. -/
theorem onlyAnAcceptedRecordWritesItsSlot : Obligations.OnlyAnAcceptedRecordWritesItsSlot := by
  unfold Obligations.OnlyAnAcceptedRecordWritesItsSlot
  intro s t h hm hne
  obtain ⟨_, ⟨_, he⟩ | ⟨_, he⟩⟩ := step_effect h
  · rcases he.slots_eq_or_accept with hs | ⟨v, tr, hr, hs, rfl⟩
    · exact absurd hs hne
    · refine ⟨hr.phase, (s.dropMove.lastField tr v).detection, ?slot, ?sum, ?count, ?fields⟩
      case slot => simp
      case sum => rw [← State.sum_toNat, hs]; simp
      case count => simp
      case fields => simp [State.detection]
  · exact absurd (he.slots_eq hm) hne

end Sys2Proof.Machine

/-! PROOFS. The opcode table of the command port (R91): no two rows match one word, and the decoder answers ILLEGAL
exactly where none does. -/

namespace Sys2Proof

/-- `(word & mask) == match`, as an equation (R91). -/
theorem RowBits.hits_iff {w : Nat} (r : RowBits w) (word : BitVec w) :
    r.hits word = true ↔ word &&& r.mask = r.pattern := by
  rw [RowBits.hits, beq_iff_eq]

/-! ### One row at most -/

/-- Every row fixes OPCODE. -/
theorem opcodeField_of_hits {r : RowBits 32} {word : U32} (hr : r ∈ commandRows)
    (h : r.hits word = true) : opcodeField word = opcodeField r.pattern := by
  simp only [commandRows, List.mem_cons, List.not_mem_nil, or_false] at hr
  rcases hr with rfl | rfl | rfl | rfl
  · exact ((rowUpdate_hits word).1 h).1
  · exact ((rowGetDetection_hits word).1 h).1
  · exact ((rowGetAll_hits word).1 h).1
  · exact ((rowReadReg_hits word).1 h).1

/-- The rows differ in OPCODE. -/
theorem commandRows_opcode_inj : ∀ r ∈ commandRows, ∀ r' ∈ commandRows,
    opcodeField r.pattern = opcodeField r'.pattern → r = r' := by decide

theorem commandRows_nodup : commandRows.Nodup := by decide

/-- The rows do not overlap: each fixes OPCODE, and no two fix it alike. -/
theorem commandRow_unique {r r' : RowBits 32} {word : U32} (hr : r ∈ commandRows)
    (hr' : r' ∈ commandRows) (h : r.hits word = true) (h' : r'.hits word = true) : r = r' :=
  commandRows_opcode_inj r hr r' hr'
    ((opcodeField_of_hits hr h).symm.trans (opcodeField_of_hits hr' h'))

theorem commandRows_filter_hits_length_le_one (word : U32) :
    (commandRows.filter fun r => r.hits word).length ≤ 1 := by
  rw [← List.toFinset_card_of_nodup (commandRows_nodup.filter _), Finset.card_le_one]
  simp only [List.mem_toFinset, List.mem_filter]
  rintro r ⟨hr, h⟩ r' ⟨hr', h'⟩
  exact commandRow_unique hr hr' h h'

/-- So exactly one row matches where any does. -/
theorem commandRows_filter_hits_length_eq_one_iff (word : U32) :
    (commandRows.filter fun r => r.hits word).length = 1 ↔
      ¬ ∀ r ∈ commandRows, r.hits word = false := by
  have hnone : (commandRows.filter fun r => r.hits word).length = 0 ↔
      ∀ r ∈ commandRows, r.hits word = false := by
    rw [List.length_eq_zero_iff, List.filter_eq_nil_iff]
    simp only [Bool.not_eq_true]
  have hle := commandRows_filter_hits_length_le_one word
  rw [← hnone]
  omega

/-! ### What a row's words decode to -/

theorem decodeCommand_of_rowUpdate_hits {word : U32} (h : rowUpdate.hits word = true) :
    decodeCommand word = .update := by
  obtain ⟨hop, hrsvd, harg⟩ := (rowUpdate_hits word).1 h
  simp [decodeCommand_eq, hop, hrsvd, harg]

theorem decodeCommand_of_rowGetDetection_hits {word : U32} (h : rowGetDetection.hits word = true) :
    decodeCommand word = .getDetection (argField word) := by
  obtain ⟨hop, hrsvd⟩ := (rowGetDetection_hits word).1 h
  simp [decodeCommand_eq, hop, hrsvd]

theorem decodeCommand_of_rowGetAll_hits {word : U32} (h : rowGetAll.hits word = true) :
    decodeCommand word = .getAll := by
  obtain ⟨hop, hrsvd, harg⟩ := (rowGetAll_hits word).1 h
  simp [decodeCommand_eq, hop, hrsvd, harg]

theorem decodeCommand_of_rowReadReg_hits {word : U32} (h : rowReadReg.hits word = true) :
    decodeCommand word = .readReg (argField word) := by
  obtain ⟨hop, hrsvd⟩ := (rowReadReg_hits word).1 h
  simp [decodeCommand_eq, hop, hrsvd]

/-- A word that some row matches is legal. -/
theorem decodeCommand_ne_illegal_of_hits {r : RowBits 32} {word : U32} (hr : r ∈ commandRows)
    (h : r.hits word = true) : decodeCommand word ≠ .illegal word := by
  simp only [commandRows, List.mem_cons, List.not_mem_nil, or_false] at hr
  rcases hr with rfl | rfl | rfl | rfl
  · simp [decodeCommand_of_rowUpdate_hits h]
  · simp [decodeCommand_of_rowGetDetection_hits h]
  · simp [decodeCommand_of_rowGetAll_hits h]
  · simp [decodeCommand_of_rowReadReg_hits h]

/-- ILLEGAL is the row of the words that no other row matches (R92). -/
theorem decodeCommand_eq_illegal_iff (word : U32) :
    decodeCommand word = .illegal word ↔ ∀ r ∈ commandRows, r.hits word = false := by
  constructor
  · intro hd r hr
    rw [← Bool.not_eq_true]
    exact fun h => decodeCommand_ne_illegal_of_hits hr h hd
  · intro h
    simp only [commandRows, List.forall_mem_cons] at h
    obtain ⟨hupdate, hgetDetection, hgetAll, hreadReg, _⟩ := h
    simp [decodeCommand, hupdate, hgetDetection, hgetAll, hreadReg]

/-- Settles O4: the rows differ in OPCODE, so one row matches where any does, and ILLEGAL is left where none does;
each row's own words decode by the row's fields. -/
theorem commandLegalIffExactlyOneRowMatches : Obligations.CommandLegalIffExactlyOneRowMatches := by
  unfold Obligations.CommandLegalIffExactlyOneRowMatches
  intro word
  refine ⟨?legal, commandRows_filter_hits_length_le_one word, ?update, ?getDetection, ?getAll, ?readReg⟩
  case legal =>
    rw [commandRows_filter_hits_length_eq_one_iff, ne_eq, decodeCommand_eq_illegal_iff]
  case update => exact fun h => decodeCommand_of_rowUpdate_hits ((rowUpdate.hits_iff word).2 h)
  case getDetection =>
    exact fun h => decodeCommand_of_rowGetDetection_hits ((rowGetDetection.hits_iff word).2 h)
  case getAll => exact fun h => decodeCommand_of_rowGetAll_hits ((rowGetAll.hits_iff word).2 h)
  case readReg => exact fun h => decodeCommand_of_rowReadReg_hits ((rowReadReg.hits_iff word).2 h)

end Sys2Proof

/-! PROOFS. The words of a slot record, and which record GET_DETECTION sends for an index (R95, R158). -/

namespace Sys2Proof.Machine

/-! ### The slot an index names -/

theorem State.slotAt_of_le {s : State} {index : U16} (h : s.config.nSlots ≤ index.toNat) :
    s.slotAt index = none :=
  if_neg h.not_gt

theorem State.slotAt_of_lt {s : State} {index : U16} (h : index.toNat < s.config.nSlots) :
    s.slotAt index = s.slots[index.toNat]? :=
  if_pos h

/-! ### The record it is sent as -/

theorem State.detectionRecord_of_slotAt_none {s : State} {index : U16} (h : s.slotAt index = none) :
    s.detectionRecord index = absentRecord := by
  rw [State.detectionRecord, h]

theorem State.detectionRecord_of_slotAt_some {s : State} {index : U16} {slot : Slot}
    (h : s.slotAt index = some slot) : s.detectionRecord index = slotRecord slot := by
  rw [State.detectionRecord, h]

/-- An EMPTY slot is sent as an index out of range is (R95). -/
theorem slotRecord_empty : slotRecord .empty = absentRecord := rfl

/-- FLAGS of the two block types (R95). -/
theorem flagsWord_normal : flagsWord .normal = 0x0001#16 := by decide
theorem flagsWord_colorCode : flagsWord .colorCode = 0x0003#16 := by decide

/-- Settles O28: the record is FLAGS and the fields of the slot that the index names, and the absent record where it
names none. -/
theorem slotRecordWords : Obligations.SlotRecordWords := by
  unfold Obligations.SlotRecordWords
  refine ⟨?present, ?empty, ?outOfRange, ?inRange⟩
  case present =>
    intro sig x y w h ang
    simp only [slotRecord, flagsWord_normal, flagsWord_colorCode, and_self]
  case empty => rfl
  case outOfRange =>
    intro s index h
    rw [State.detectionRecord_of_slotAt_none (State.slotAt_of_le h), slotRecord_empty]
  case inRange =>
    intro s index slot h hslot
    exact State.detectionRecord_of_slotAt_some ((State.slotAt_of_lt h).trans hslot)

end Sys2Proof.Machine

/-! PROOFS. The scan (40_synchronizer.md): its limit and its counter SCNT (R112), and the frame starts (R116, R117). -/

namespace Sys2Proof.Machine

/-! ### Frame starts (R116, R117) -/

/-- A sync word after `0xAA55` starts a frame. -/
theorem exec_scanSync_of_prev {s : State} (h : s.prev = syncNormal) :
    exec .scanSyncNormal s = .next ((s.takeScanWord syncNormal).synced .normal) ∧
      exec .scanSyncColorCode s = .next ((s.takeScanWord syncColorCode).synced .colorCode) := by
  simp only [exec_next, if_pos h, and_self]

/-- A sync word after any other word is shifted. -/
theorem exec_scanSync_of_prev_ne {s : State} (h : s.prev ≠ syncNormal) :
    exec .scanSyncNormal s = .next (s.takeScanWord syncNormal).shift ∧
      exec .scanSyncColorCode s = .next (s.takeScanWord syncColorCode).shift := by
  simp only [exec_next, if_neg h, and_self]

/-- Settles O11: PREV decides between SYNCED and the shift, for both sync words alike. -/
theorem frameStartNeedsSyncNormalInPrev : Obligations.FrameStartNeedsSyncNormalInPrev := by
  unfold Obligations.FrameStartNeedsSyncNormalInPrev
  exact fun _ => ⟨exec_scanSync_of_prev, exec_scanSync_of_prev_ne⟩

/-! ### The scan's steps (R112, R118) -/

/-- A step of the block in SCAN_WORD (R21). -/
theorem step_scanWord {s : State} (ht : s.blockTurn) (hp : s.phase = .scanWord) :
    step s = scanWordStep s.dropMove :=
  (step_block ht.1 ht.2).trans (blockStep_scanWord hp)

/-- A step of the block in SCAN_BYTE (R21). -/
theorem step_scanByte {s : State} (ht : s.blockTurn) (hp : s.phase = .scanByte) :
    step s = scanByteStep s.dropMove :=
  (step_block ht.1 ht.2).trans (blockStep_scanByte hp)

/-- A request whose response is there goes on with it at once (R13). -/
theorem State.request_answered {α : Type} {s : State} (w : Width) (r : Response α) (tr : Transport)
    (go : Response α → State → Result State) (ha : s.abandoned = none) :
    s.request w (.answered r tr) go = go r (s.gotResponse tr) := by
  simp only [State.request, ha]

/-- The scan at its limit issues no request (R112). -/
theorem scanWordStep_of_limit {s : State} (h : s.scnt.toNat = s.config.scanLimit) :
    scanWordStep s = .next (s.noFrame .noFrameScanLimit) :=
  if_pos h

/-- The scan below its limit takes the response to its word request (R112). -/
theorem scanWordStep_of_answered {s : State} {r : Response U16} {tr : Transport}
    (hl : s.scnt.toNat ≠ s.config.scanLimit) (ha : s.abandoned = none)
    (hr : s.transport.readWord = .answered r tr) :
    scanWordStep s = takeScanResponse r (s.gotResponse tr) := by
  rw [scanWordStep, if_neg hl, hr, State.request_answered _ _ _ _ ha]

/-- The scan takes the response to its byte request, with no look at the limit (R112, R118). -/
theorem scanByteStep_of_answered {s : State} {r : Response U8} {tr : Transport}
    (ha : s.abandoned = none) (hr : s.transport.readByte = .answered r tr) :
    scanByteStep s = State.takeRecovery r (s.gotResponse tr) := by
  rw [scanByteStep, hr, State.request_answered _ _ _ _ ha]

/-! ### What SCNT counts (R112) -/

/-- Every scan word is counted and loaded into CUR, whatever its class and PREV. -/
theorem exec_decodeScan_counts (v : U16) (s : State) :
    ∃ t, exec (decodeScan v) s = .next t ∧ t.scnt = s.scnt + 1#16 ∧ t.cur = v ∧
      t.transport = s.transport := by
  refine ⟨_, exec_next _ s, ?_⟩
  -- the PREV condition of a class (R80) chooses between two states that agree on all three fields
  rcases decodeScan_cases v with ⟨rfl, hd⟩ | ⟨rfl, hd⟩ | ⟨rfl, hd⟩ | ⟨rfl, hd⟩ | ⟨_, _, _, _, hd⟩ <;>
    simp [hd, apply_ite State.scnt, apply_ite State.cur, apply_ite State.transport]

/-- The recovery byte is not counted, and neither is its absence. -/
theorem State.takeRecovery_keeps_scnt (r : Response U8) (s : State) :
    ∃ t, s.takeRecovery r = .next t ∧ t.scnt = s.scnt ∧ t.transport = s.transport := by
  cases r with
  | data b => exact ⟨_, rfl, by simp⟩
  | nonData c => exact ⟨_, rfl, by simp⟩

/-- Settles O16: SCNT is compared before a word request alone, and only a scan word's `DATA` raises it. -/
theorem scanLimitIsCheckedBeforeEachWord : Obligations.ScanLimitIsCheckedBeforeEachWord := by
  unfold Obligations.ScanLimitIsCheckedBeforeEachWord
  refine ⟨?limit, ?below, ?recovery⟩
  case limit =>
    intro s ht hp hl
    exact (step_scanWord ht hp).trans (scanWordStep_of_limit hl)
  case below =>
    intro s v tr ht hp hl ha hr
    rw [step_scanWord ht hp, scanWordStep_of_answered (s := s.dropMove) hl ha hr]
    exact exec_decodeScan_counts v (s.dropMove.gotResponse tr)
  case recovery =>
    intro s r tr ht hp ha hr
    rw [step_scanByte ht hp, scanByteStep_of_answered (s := s.dropMove) ha hr]
    exact State.takeRecovery_keeps_scnt r (s.dropMove.gotResponse tr)

end Sys2Proof.Machine

/-! PROOFS. The record decoder (41_record_decoder.md): what SUM counts (R134), and the abort of a record whose word
request is answered without a value (R136). -/

namespace Sys2Proof.Machine

/-! ### SUM (R134) -/

/-- A Normal record's cleared angle adds nothing to SUM (R133). -/
theorem State.closeFields_sum_toNat {s : State} (h : s.btype = .normal) :
    s.closeFields.sum.toNat =
      (s.fSig.toNat + s.fX.toNat + s.fY.toNat + s.fW.toNat + s.fH.toNat) % 65536 := by
  rw [State.sum_toNat]
  simp [State.detection, Detection.sumMod, h]

/-- Settles O23: SUM is the sum of the field registers' Detection, and closing a Normal record's fields clears its
angle. -/
theorem checksumIsTheUnsignedSumModulo65536 : Obligations.ChecksumIsTheUnsignedSumModulo65536 := by
  unfold Obligations.ChecksumIsTheUnsignedSumModulo65536
  exact fun s => ⟨s.sum_toNat, State.closeFields_sum_toNat⟩

/-! ### A word request without a value (R136) -/

/-- A step of the block in REC_TYPE (R21). -/
theorem step_recType {s : State} (ht : s.blockTurn) (hp : s.phase = .recType) :
    step s = recTypeStep s.dropMove :=
  (step_block ht.1 ht.2).trans (blockStep_recType hp)

/-- A step of the block in REC_FIELD (R21). -/
theorem step_recField {s : State} (ht : s.blockTurn) (hp : s.phase = .recField) :
    step s = recFieldStep s.dropMove :=
  (step_block ht.1 ht.2).trans (blockStep_recField hp)

/-- The block takes the response to the request for a record's sync word (R131). -/
theorem recTypeStep_of_answered {s : State} {r : Response U16} {tr : Transport}
    (ha : s.abandoned = none) (hr : s.transport.readWord = .answered r tr) :
    recTypeStep s = takeSyncResponse r (s.gotResponse tr) := by
  rw [recTypeStep, hr, State.request_answered _ _ _ _ ha]

/-- The block takes the response to the request for a body word (R133). -/
theorem recFieldStep_of_answered {s : State} {r : Response U16} {tr : Transport}
    (ha : s.abandoned = none) (hr : s.transport.readWord = .answered r tr) :
    recFieldStep s = State.takeBodyWord r (s.gotResponse tr) := by
  rw [recFieldStep, hr, State.request_answered _ _ _ _ ha]

/-- The phases of a record (R21). -/
theorem State.inRecord_iff (s : State) :
    s.inRecord = true ↔ s.phase = .recType ∨ s.phase = .recField := by
  simp [State.inRecord]

/-- In both phases of a record a response without a value is the abort of its kind. -/
theorem step_record_nonData {s : State} {c : NonData} {tr : Transport} (ht : s.blockTurn)
    (ha : s.abandoned = none) (hi : s.inRecord = true)
    (hr : s.transport.readWord = .answered (.nonData c) tr) :
    step s = .next ((s.dropMove.gotResponse tr).abortPass (.abort c)) := by
  rcases s.inRecord_iff.mp hi with hp | hp
  · rw [step_recType ht hp, recTypeStep_of_answered (s := s.dropMove) ha hr, takeSyncResponse]
  · rw [step_recField ht hp, recFieldStep_of_answered (s := s.dropMove) ha hr, State.takeBodyWord]

/-- STATUS of an abort, by the kind of response and the frame's type (R34, R156). -/
theorem statusWord_abort (c : NonData) (t : BlockType) :
    statusWord (.abort c) true t =
      (match c, t with
        | .noData, .normal => 0x0018#16
        | .eos, .normal => 0x0019#16
        | .fault, .normal => 0x001A#16
        | .noData, .colorCode => 0x0038#16
        | .eos, .colorCode => 0x0039#16
        | .fault, .colorCode => 0x003A#16) := by
  cases c <;> cases t <;> decide

/-- Settles O25: both phases end the pass by the same `abortPass`, which writes the end-of-pass registers and the
response only. -/
theorem responseWithoutValueAbortsTheRecord : Obligations.ResponseWithoutValueAbortsTheRecord := by
  unfold Obligations.ResponseWithoutValueAbortsTheRecord
  intro s c tr ht ha hi hr
  rw [step_record_nonData ht ha hi hr, State.abortPass, State.finish, statusWord_abort]
  rfl

end Sys2Proof.Machine

/-! PROOFS. The end of a pass (42_controller.md R156): what `finish` writes, and the record counts of a pass that ends
in its scan. -/

namespace Sys2Proof.Machine

/-- Settles O26: STATUS is `statusWord`, whose fields are known; the invariant's scan clause holds both record counts
at 0. -/
theorem finishWritesStatusAndCounts : Obligations.FinishWritesStatusAndCounts := by
  unfold Obligations.FinishWritesStatusAndCounts
  intro s code synced cc
  obtain ⟨hcode, hsynced, hcc, hreserved⟩ := statusWord_fields code synced cc
  have hcounts : s.Inv → s.inScan = true → s.nrec = 0#16 ∧ s.nacc = 0#16 := fun hinv => hinv.scan.1
  exact ⟨hcode, hsynced, hcc, hreserved, s.finish_lastRecords code synced cc,
    s.finish_lastAccepted code synced cc, s.finish_lastScanWords code synced cc,
    s.finish_phase code synced cc, hcounts⟩

end Sys2Proof.Machine

/-! PROOFS. Reset (70_reset_and_hazards.md R200): the block's own state at the reset values of R46. -/

namespace Sys2Proof.Machine

/-- Whatever the transport has of the outstanding request, a reset gives `resetBlock` with the transport's fields
alone settled (R200, R201). -/
theorem EnvTo.reset_eq {s t : State} (h : EnvTo s .reset t) :
    ∃ tr ab al, t = { s.resetBlock with
      outstanding := none, transport := tr, abandoned := ab, alignment := al } := by
  cases h with
  | arrive _ _ hf | arriveOwed _ _ _ hf | arriveLate _ _ _ _ _ hf => simp at hf
  | reset ho => exact ⟨s.transport, s.abandoned, s.alignment, by apply State.ext <;> simp [ho]⟩
  | resetOwed w => exact ⟨s.transport, some w, s.alignment, rfl⟩
  | resetLate w tr data => exact ⟨tr, none, s.alignment.after w data, rfl⟩

/-- A step whose move is reset is the environment's. -/
theorem step_reset_envTo {s t : State} (hm : nextMove s = .reset) (h : step s = .next t) :
    EnvTo s.dropMove .reset t := by
  obtain ⟨_, ⟨hb, _⟩ | ⟨_, he⟩⟩ := step_next_cases h
  · cases hm.symm.trans hb
  · exact hm ▸ he

/-- Settles O35: every reset gives `resetBlock` up to the transport's fields, and `resetBlock` holds the values of
R46 for the parameters it keeps. -/
theorem resetPutsTheBlockAtItsResetValues : Obligations.ResetPutsTheBlockAtItsResetValues := by
  unfold Obligations.ResetPutsTheBlockAtItsResetValues
  intro s t hm h
  obtain ⟨tr, ab, al, rfl⟩ := (step_reset_envTo hm h).reset_eq
  simp [State.resetBlock, State.resetWith, State.capacity]

end Sys2Proof.Machine

/-! PROOFS. The invariant `State.Inv`: it holds at reset, and every step of the block and of its environment keeps
it (R28, R34 to R37, R110, R130, R151, R201). -/

namespace Sys2Proof.Machine

/-! ### The parameters -/

/-- Both parameters lie between 1 and 65535 (R6, R7). -/
theorem Config.legal_iff (c : Config) :
    c.legal = true ↔
      (1 ≤ c.nSlots ∧ c.nSlots ≤ 65535) ∧ 1 ≤ c.scanLimit ∧ c.scanLimit ≤ 65535 := by
  simp [Config.legal, and_assoc]

/-! ### The phases of a pass (R21) -/

theorem State.inScan_iff (s : State) : s.inScan = true ↔ s.phase = .scanWord ∨ s.phase = .scanByte := by
  simp [State.inScan]

theorem State.inPass_iff (s : State) : s.inPass = true ↔ s.inScan = true ∨ s.inRecord = true := by
  simp [State.inPass]

/-- No two clauses of the invariant speak of one phase: what `simp` needs to tell the phases apart. -/
theorem State.inPass_eq (s : State) :
    s.inPass = true ↔
      s.phase = .scanWord ∨ s.phase = .scanByte ∨ s.phase = .recType ∨ s.phase = .recField := by
  simp [State.inPass, State.inScan, State.inRecord, or_assoc]

/-! ### Counters that do not wrap -/

theorem toNat_add_one {v : U16} (h : v.toNat < 65535) : (v + 1#16).toNat = v.toNat + 1 := by
  bv_omega

/-! ### The end of a pass -/

/-- The result codes of a pass that found a frame (R34). -/
abbrev ResultCode.Synced (code : ResultCode) (synced : Bool) : Prop :=
  synced = true ↔ code.code = 0x1#4 ∨ 0x7 ≤ code.code.toNat

/-- STATUS as `finish` writes it is legal where LAST_SYNCED fits the result (R34). -/
theorem statusLegal_statusWord {code : ResultCode} {synced : Bool} {cc : BlockType}
    (hs : code.Synced synced) (hcc : cc = .colorCode → synced = true) :
    StatusLegal (statusWord code synced cc) := by
  obtain ⟨hcode, hsynced, hfirst, hreserved⟩ := statusWord_fields code synced cc
  refine ⟨hreserved, hcode ▸ code.code_le, ?_, ?_⟩
  · rw [hsynced, hcode]; exact hs
  · rw [hsynced, hfirst]; simpa using hcc

/-- What `finish` needs of the counts for the invariant to hold after it (R34 to R37). -/
structure State.MayFinish (s : State) (code : ResultCode) (synced : Bool) (cc : BlockType) : Prop where
  config : s.config.legal = true
  slots : s.slots.length = s.config.nSlots
  result : code.Synced synced
  cc : cc = .colorCode → synced = true
  nacc : s.nacc ≤ s.nrec
  nrec : s.nrec.toNat ≤ s.config.nSlots
  scnt : s.scnt.toNat ≤ s.config.scanLimit
  noFrame : synced = false → s.nrec = 0#16
  complete : code.code = 0x1#4 → s.nrec.toNat = s.config.nSlots
  outstanding : s.outstanding = none
  abandoned : ∀ w, s.abandoned = some w → s.transport.discard w = .waiting

theorem State.MayFinish.inv {s : State} {code : ResultCode} {synced : Bool} {cc : BlockType}
    (h : s.MayFinish code synced cc) : (s.finish code synced cc).Inv where
  config := h.config
  registers := by
    obtain ⟨hcode, hsynced, -, -⟩ := statusWord_fields code synced cc
    refine ⟨h.slots, statusLegal_statusWord h.result h.cc, h.nacc, h.nrec, h.scnt, ?_, ?_⟩
    · simpa [hsynced] using h.noFrame
    · simpa [hcode] using h.complete
  pass := by simp [State.PassLegal, State.inPass_eq]
  scan := by simp [State.ScanLegal, State.inScan_iff]
  record := by simp [State.RecordLegal, State.inRecord_iff]
  ports := by
    refine ⟨by simp, fun _ => s.passResponse_ne_nil code, by simp [h.outstanding],
      by simp [h.outstanding], fun w hw => ⟨h.outstanding, h.abandoned w hw⟩⟩

/-- A scan ends its pass with no record read (R121, R155). -/
theorem State.Inv.noFrame {s : State} {code : ResultCode} {n c : U16} {tr : Transport} (hi : s.Inv)
    (hp : s.inScan = true) (hc : code.Synced false) (hn : n.toNat ≤ s.config.scanLimit)
    (hab : ∀ w, s.abandoned = some w → tr.discard w = .waiting) :
    (({ s with transport := tr, outstanding := none, scnt := n, cur := c } : State).noFrame code).Inv := by
  obtain ⟨hnrec, hnacc⟩ := hi.scan.1 hp
  refine State.MayFinish.inv ⟨hi.config, hi.registers.1, hc, by simp, ?_, ?_, hn, fun _ => hnrec, ?_, rfl, hab⟩
  · simp [hnrec, hnacc]
  · simp [hnrec]
  · intro h
    simp [ResultCode.Synced, h] at hc

/-- A record aborts its pass with the records before it counted (R136, R155). -/
theorem State.Inv.abortPass {s : State} {tr : Transport} {code : ResultCode} (hi : s.Inv)
    (hp : s.inRecord = true) (hab : s.abandoned = none) (hc : 0x7 ≤ code.code.toNat) :
    ((s.gotResponse tr).abortPass code).Inv := by
  obtain ⟨hlt, hn, ha, -⟩ := hi.record.1 hp
  have hw := (hi.pass (s.inPass_iff.mpr (.inr hp))).1
  refine State.MayFinish.inv ⟨hi.config, hi.registers.1, by simp [ResultCode.Synced, hc], by simp, ha, ?_, hw,
    by simp, ?_, rfl, by simp [hab]⟩
  · simp [hn]; omega
  · intro h; simp [h] at hc

/-! ### The end of a record -/

/-- `r` is `s` with the record at index I read and counted, and only the field registers, the buffer, the fault
registers and the event log changed besides (R137, R138). -/
structure State.RecordCounted (s r : State) : Prop where
  config : r.config = s.config
  slots : r.slots.length = s.slots.length
  i : r.i = s.i
  scnt : r.scnt = s.scnt
  cmdOp : r.cmdOp = s.cmdOp
  nrec : r.nrec = s.nrec + 1#16
  nacc : r.nacc = s.nacc ∨ r.nacc = s.nacc + 1#16
  status : r.status = s.status
  lastRecords : r.lastRecords = s.lastRecords
  lastAccepted : r.lastAccepted = s.lastAccepted
  lastScanWords : r.lastScanWords = s.lastScanWords
  response : r.response = s.response
  outstanding : r.outstanding = none
  abandoned : r.abandoned = s.abandoned

theorem State.recordCounted_commit (s : State) (tr : Transport) (v : U16) :
    s.RecordCounted (s.lastField tr v).commit := by
  constructor <;> simp [State.lastField]

theorem State.recordCounted_reject (s : State) (tr : Transport) (v : U16) :
    s.RecordCounted (s.lastField tr v).reject := by
  constructor <;> simp [State.lastField]

/-- After a record the pass goes on with the next one, or ends with the frame complete (R155). -/
theorem State.Inv.nextRecord {s r : State} (hi : s.Inv) (hp : s.phase = .recField)
    (ha : s.abandoned = none) (hr : s.RecordCounted r) : r.nextRecord.Inv := by
  have hrec : s.inRecord = true := s.inRecord_iff.mpr (.inr hp)
  obtain ⟨hlt, hn, hle, hcnt⟩ := hi.record.1 hrec
  obtain ⟨hlim, hcmd, hnil⟩ := hi.pass (s.inPass_iff.mpr (.inr hrec))
  obtain ⟨⟨-, hmax⟩, -⟩ := (Config.legal_iff _).mp hi.config
  have hsucc : (s.i + 1#16).toNat = s.i.toNat + 1 := toNat_add_one (by omega)
  have hnrec : r.nrec = s.i + 1#16 := by rw [hr.nrec, hn]
  have hacc : r.nacc ≤ r.nrec := by
    rw [hn] at hle
    rw [hnrec]
    rcases hr.nacc with h | h <;> rw [h] <;> bv_omega
  have hab : r.abandoned = none := hr.abandoned.trans ha
  rcases r.nextRecord_cases with ⟨hlast, heq⟩ | ⟨hlast, heq⟩ <;> rw [heq] <;>
    rw [hr.i, hr.config] at hlast
  · refine ⟨hr.config ▸ hi.config, ?_, ?_, ?_, ?_, ?_⟩
    · simpa [State.RegistersLegal, hr.status, hr.lastRecords, hr.lastAccepted, hr.lastScanWords,
        hr.config, hr.slots] using hi.registers
    · exact fun _ => ⟨by simpa [hr.scnt, hr.config] using hlim, by simpa [hr.cmdOp] using hcmd,
        hr.response.trans hnil⟩
    · simp [State.ScanLegal, State.inScan_iff]
    · refine ⟨fun _ => ⟨?_, ?_, hacc, by simpa [hr.scnt] using hcnt⟩, ?_, by simp, by simp⟩
      · simpa [hr.i, hsucc, hr.config] using hlast
      · simp [hnrec, hr.i]
      · simp [hr.i, hsucc]
    · exact ⟨by simp, by simp, by simp [hr.outstanding], by simp [hr.outstanding], by simp [hab]⟩
  · have hall : r.nrec.toNat = r.config.nSlots := by rw [hnrec, hsucc, hr.config]; omega
    exact State.MayFinish.inv ⟨hr.config ▸ hi.config, by rw [hr.slots, hr.config]; exact hi.registers.1,
      by simp [ResultCode.Synced, ResultCode.code], by simp, hacc, hall.le,
      by rw [hr.scnt, hr.config]; exact hlim, by simp, fun _ => hall, hr.outstanding, by simp [hab]⟩

/-! ### Every step keeps the invariant -/

/-- An idle block has no request outstanding (R67). -/
theorem State.Inv.outstanding_of_not_inPass {s : State} (hi : s.Inv) (h : s.inPass = false) :
    s.outstanding = none := by
  obtain ⟨-, -, hbyte, hword, -⟩ := hi.ports
  rw [Bool.eq_false_iff, ne_eq, s.inPass_eq] at h
  rcases ho : s.outstanding with _ | _ | _
  · rfl
  · rcases hword ho with ⟨hp, -⟩ | hr
    · simp [hp] at h
    · rcases s.inRecord_iff.mp hr with hp | hp <;> simp [hp] at h
  · simp [hbyte ho] at h

/-- An accepted command latches the OPCODE of its pass (R22, R90). -/
theorem opcodeField_of_runsPass {i : Instr} (h : runsPass i = true) :
    opcodeField (commandOf (encode i)) = 0x01#8 ∨ opcodeField (commandOf (encode i)) = 0x02#8 ∨
      opcodeField (commandOf (encode i)) = 0x03#8 := by
  cases i <;> simp [runsPass] at h <;> simp [encode, commandOf]

theorem State.Inv.acceptPass {s : State} {i : Instr} (hi : s.Inv) (hp : s.phase = .idle)
    (h : runsPass i = true) : (s.acceptPass i).Inv where
  config := hi.config
  registers := hi.registers
  pass := fun _ => ⟨Nat.zero_le _, opcodeField_of_runsPass h, hi.ports.1 hp⟩
  scan := ⟨fun _ => ⟨rfl, rfl⟩, by simp [sentinel, syncNormal], by simp⟩
  record := by simp [State.RecordLegal, State.inRecord_iff]
  ports := by
    have ho := hi.outstanding_of_not_inPass (by simp [State.inPass, State.inScan, State.inRecord, hp])
    refine ⟨by simp, by simp, by simp [ho], by simp [ho], hi.ports.2.2.2.2⟩

/-- A command that is answered at once (R160 to R162). -/
theorem State.Inv.answered {s : State} {w : U32} {ws : List U32} {words : List U16} (hi : s.Inv)
    (hp : s.phase = .idle) (h : words ≠ []) :
    ((({ s with commands := ws } : State).latch w).respond words).Inv where
  config := hi.config
  registers := hi.registers
  pass := by simp [State.PassLegal, State.inPass_eq]
  scan := by simp [State.ScanLegal, State.inScan_iff]
  record := by simp [State.RecordLegal, State.inRecord_iff]
  ports := by
    have ho := hi.outstanding_of_not_inPass (by simp [State.inPass, State.inScan, State.inRecord, hp])
    exact ⟨by simp, fun _ => h, by simp [ho], by simp [ho], hi.ports.2.2.2.2⟩

theorem State.Inv.deliver {s : State} (hi : s.Inv) (hp : s.phase = .respond) : s.deliver.Inv := by
  have ho := hi.outstanding_of_not_inPass (by simp [State.inPass, State.inScan, State.inRecord, hp])
  rcases s.deliver_cases with ⟨hr, -⟩ | ⟨w, hr, heq⟩ | ⟨w, w', ws, hr, heq⟩
  · exact absurd hr (hi.ports.2.1 hp)
  · rw [heq]
    refine ⟨hi.config, hi.registers, ?_, ?_, ?_, ?_⟩
    · simp [State.PassLegal, State.inPass_eq]
    · simp [State.ScanLegal, State.inScan_iff]
    · simp [State.RecordLegal, State.inRecord_iff]
    · exact ⟨by simp, by simp, by simp [ho], by simp [ho], hi.ports.2.2.2.2⟩
  · rw [heq]
    refine ⟨hi.config, hi.registers, ?_, ?_, ?_, ?_⟩
    · simp [State.PassLegal, State.inPass_eq, hp]
    · simp [State.ScanLegal, State.inScan_iff, hp]
    · simp [State.RecordLegal, State.inRecord_iff, hp]
    · exact ⟨by simp [hp], by simp, by simp [ho], by simp [ho], hi.ports.2.2.2.2⟩

/-- Below the limit one more scan word is counted without wrapping (R112). -/
theorem State.Inv.scnt_succ {s : State} (hi : s.Inv) (hp : s.phase = .scanWord)
    (hb : s.scnt.toNat ≠ s.config.scanLimit) :
    (s.scnt + 1#16).toNat = s.scnt.toNat + 1 ∧ s.scnt.toNat + 1 ≤ s.config.scanLimit := by
  obtain ⟨hlim, -, -⟩ := hi.pass (s.inPass_eq.mpr (.inl hp))
  obtain ⟨-, -, hmax⟩ := (Config.legal_iff _).mp hi.config
  exact ⟨toNat_add_one (by omega), by omega⟩

/-! ### A pass that goes on -/

/-- Between the steps of a pass no port holds anything (R22, R67, R201). -/
theorem State.portsLegal_of_inPass {s : State} (hp : s.inPass = true) (ho : s.outstanding = none)
    (ha : s.abandoned = none) : s.PortsLegal := by
  rw [s.inPass_eq] at hp
  refine ⟨?_, ?_, by simp [ho], by simp [ho], by simp [ha]⟩ <;> intro h <;> simp [h] at hp

/-- A frame start: two scan words have been read, and no record (R116, R117, R123). -/
theorem State.Inv.scanSync {s : State} {v : U16} {b : BlockType} {tr : Transport} (hi : s.Inv)
    (hr : s.ScanReads (.data v) tr) (hprev : s.prev = 0xAA55#16) :
    (((s.gotResponse tr).takeScanWord v).synced b).Inv := by
  obtain ⟨hn, hle⟩ := hi.scnt_succ hr.phase hr.below
  obtain ⟨-, hcmd, hnil⟩ := hi.pass (s.inPass_eq.mpr (.inl hr.phase))
  obtain ⟨h0, h1⟩ := hi.scan.1 (s.inScan_iff.mpr (.inl hr.phase))
  have hone := hi.scan.2.1 hr.phase hprev
  obtain ⟨⟨hmin, -⟩, -⟩ := (Config.legal_iff _).mp hi.config
  refine ⟨hi.config, hi.registers, fun _ => ⟨hn ▸ hle, hcmd, hnil⟩, ?_, ?_,
    State.portsLegal_of_inPass rfl rfl hr.free⟩
  · simp [State.ScanLegal, State.inScan_iff]
  · refine ⟨fun _ => ⟨hmin, h0, by simp [h0, h1], ?_⟩, by simp, by simp, by simp⟩
    simp only [State.synced_scnt, State.takeScanWord_scnt, State.gotResponse_scnt]
    omega

/-- An out-of-sync word: it is counted, and its recovery byte is next (R118). -/
theorem State.Inv.scanOutOfSync {s : State} {tr : Transport} (hi : s.Inv)
    (hr : s.ScanReads (.data 0x55AA#16) tr) :
    (({ (s.gotResponse tr).takeScanWord 0x55AA#16 with
      oosCount := s.oosCount + 1#16, phase := .scanByte } : State).emit .outOfSync).Inv := by
  obtain ⟨hn, hle⟩ := hi.scnt_succ hr.phase hr.below
  obtain ⟨-, hcmd, hnil⟩ := hi.pass (s.inPass_eq.mpr (.inl hr.phase))
  have hcnt := hi.scan.1 (s.inScan_iff.mpr (.inl hr.phase))
  refine ⟨hi.config, hi.registers, fun _ => ⟨hn ▸ hle, hcmd, hnil⟩,
    ⟨fun _ => hcnt, by simp, fun _ => ⟨rfl, by simp [hn]⟩⟩, ?_,
    State.portsLegal_of_inPass rfl rfl hr.free⟩
  simp [State.RecordLegal, State.inRecord_iff]

/-- A scan word that is shifted (R119). -/
theorem State.Inv.scanShift {s : State} {v : U16} {tr : Transport} (hi : s.Inv)
    (hr : s.ScanReads (.data v) tr) : ((s.gotResponse tr).takeScanWord v).shift.Inv := by
  obtain ⟨hn, hle⟩ := hi.scnt_succ hr.phase hr.below
  obtain ⟨-, hcmd, hnil⟩ := hi.pass (s.inPass_eq.mpr (.inl hr.phase))
  have hcnt := hi.scan.1 (s.inScan_iff.mpr (.inl hr.phase))
  refine ⟨hi.config, hi.registers, fun _ => ⟨hn ▸ hle, hcmd, hnil⟩,
    ⟨fun _ => hcnt, fun _ _ => by simp [hn], by simp⟩, ?_,
    State.portsLegal_of_inPass rfl rfl hr.free⟩
  simp [State.RecordLegal, State.inRecord_iff]

/-- The recovery byte: the out-of-sync word is shifted (R118, R119). -/
theorem State.Inv.recovered {s : State} {tr : Transport} (hi : s.Inv) (hp : s.phase = .scanByte)
    (ha : s.abandoned = none) : ((s.gotResponse tr).realign .byte true).shift.Inv := by
  obtain ⟨-, hone⟩ := hi.scan.2.2 hp
  have hpass := hi.pass (s.inPass_eq.mpr (.inr (.inl hp)))
  have hcnt := hi.scan.1 (s.inScan_iff.mpr (.inr hp))
  refine ⟨hi.config, hi.registers, fun _ => hpass, ⟨fun _ => hcnt, fun _ _ => hone, by simp⟩, ?_,
    State.portsLegal_of_inPass rfl rfl ha⟩
  simp [State.RecordLegal, State.inRecord_iff]

/-- The sync word of a record after record 0 (R131). -/
theorem State.Inv.sync {s : State} {b : BlockType} {tr : Transport} (hi : s.Inv)
    (hp : s.phase = .recType) (ha : s.abandoned = none) : ((s.gotResponse tr).beginBody b).Inv := by
  have hin := s.inRecord_iff.mpr (.inl hp)
  have hone := hi.record.2.1 hp
  have hpass := hi.pass (s.inPass_iff.mpr (.inr hin))
  refine ⟨hi.config, hi.registers, fun _ => hpass, ?_,
    ⟨fun _ => hi.record.1 hin, by simp, by simp, fun _ h0 => ?_⟩,
    State.portsLegal_of_inPass rfl rfl ha⟩
  · simp [State.ScanLegal, State.inScan_iff]
  · rw [State.beginBody_i, State.gotResponse_i] at h0
    simp [h0] at hone

/-- Only a ColorCode record has an angle word (R82, R133). -/
theorem FieldNo.next_eq_angle {k : FieldNo} {b : BlockType} (h : k.next b = some .angle) :
    b = .colorCode := by
  cases k <;> cases b <;> simp [FieldNo.next] at h ⊢

/-- A body word that is not the last of its record (R133). -/
theorem State.Inv.field {s : State} {v : U16} {k : FieldNo} {tr : Transport} (hi : s.Inv)
    (hr : s.FieldReads v tr) (hk : s.k.next s.btype = some k) :
    ({ (s.gotResponse tr).setField s.k v with k := k } : State).Inv := by
  have hin := s.inRecord_iff.mpr (.inr hr.phase)
  have hpass := hi.pass (s.inPass_iff.mpr (.inr hin))
  refine ⟨?_, ?_, ?_, ?_, ⟨?_, ?_, ?_, ?_⟩, State.portsLegal_of_inPass ?_ ?_ ?_⟩
  · simpa using hi.config
  · simpa [State.RegistersLegal] using hi.registers
  · exact fun _ => by simpa using hpass
  · simp [State.ScanLegal, State.inScan_iff, hr.phase]
  · exact fun _ => by simpa using hi.record.1 hin
  · simp [hr.phase]
  · rintro - rfl
    simpa using FieldNo.next_eq_angle hk
  · simpa [hr.phase] using hi.record.2.2.2
  · simp [State.inPass_eq, hr.phase]
  · simp
  · simpa using hr.free

/-- A scan at its limit ends its pass (R112, R121). -/
theorem State.Inv.scanLimit {s : State} (hi : s.Inv) (hp : s.phase = .scanWord)
    (hl : s.scnt.toNat = s.config.scanLimit) : (s.noFrame .noFrameScanLimit).Inv := by
  obtain ⟨-, -, hbyte, hword, hab⟩ := hi.ports
  have ho : s.outstanding = none := by
    rcases ho : s.outstanding with _ | _ | _
    · rfl
    · simpa [hp, hl, State.inRecord] using hword ho
    · simpa [hp] using hbyte ho
  have hs : s = { s with outstanding := none } := by apply State.ext <;> simp [ho]
  rw [hs]
  exact hi.noFrame (s.inScan_iff.mpr (.inl hp)) (by simp [ResultCode.Synced, ResultCode.code]) hl.le
    fun w hw => (hab w hw).2

/-! ### Every step keeps the invariant -/

/-- The invariant does not speak of the commands offered, nor of the host. -/
theorem State.Inv.withPorts {s : State} (hi : s.Inv) (ws : List U32) (b : Bool) :
    ({ s with commands := ws, hostReady := b } : State).Inv :=
  ⟨hi.config, hi.registers, hi.pass, hi.scan, hi.record, hi.ports⟩

theorem State.Inv.dropMove {s : State} (hi : s.Inv) : s.dropMove.Inv :=
  ⟨hi.config, hi.registers, hi.pass, hi.scan, hi.record, hi.ports⟩

/-- Every effect of a block's step keeps the invariant. -/
theorem Effect.inv {s t : State} (h : Effect s t) (hi : s.Inv) : t.Inv := by
  cases h with
  | idleHold | owed | notTaken => exact hi
  | acceptPass w ws i hp _ _ hr =>
    exact (hi.withPorts ws s.hostReady).acceptPass hp hr
  | acceptReg _ _ _ _ hp => exact hi.answered hp (by simp)
  | acceptBad _ _ _ hp => exact hi.answered hp (by simp)
  | waitWord ha hr hp =>
    obtain ⟨hidle, hresp, -⟩ := hi.ports
    exact ⟨hi.config, hi.registers, hi.pass, hi.scan, hi.record, hidle, hresp, by simp, fun _ => hp, by simp [ha]⟩
  | waitByte ha hr hp =>
    obtain ⟨hidle, hresp, -⟩ := hi.ports
    exact ⟨hi.config, hi.registers, hi.pass, hi.scan, hi.record, hidle, hresp, fun _ => hp, by simp, by simp [ha]⟩
  | scanLimit hp hl => exact hi.scanLimit hp hl
  | scanIdle tr hr hz =>
    obtain ⟨hn, hle⟩ := hi.scnt_succ hr.phase hr.below
    exact hi.noFrame (s.inScan_iff.mpr (.inl hr.phase)) (by simp [ResultCode.Synced, ResultCode.code])
      (hn ▸ hle) (by simp [hr.free])
  | scanNonData c tr hr =>
    exact hi.noFrame (s.inScan_iff.mpr (.inl hr.phase))
      (by cases c <;> simp [ResultCode.Synced, ResultCode.code])
      (hi.pass (s.inPass_eq.mpr (.inl hr.phase))).1 (by simp [hr.free])
  | byteNonData c tr hp ha hr =>
    exact hi.noFrame (s.inScan_iff.mpr (.inr hp))
      (by cases c <;> simp [ResultCode.Synced, ResultCode.code])
      (hi.pass (s.inPass_eq.mpr (.inr (.inl hp)))).1 (by simp [ha])
  | scanSync v b tr hr hprev _ => exact hi.scanSync hr hprev
  | scanOutOfSync tr hr => exact hi.scanOutOfSync hr
  | scanShift v tr hr => exact hi.scanShift hr
  | byteData b tr hp ha _ => exact hi.recovered hp ha
  | sync v b tr hp ha => exact hi.sync hp ha
  | badSync v tr hp ha _ =>
    exact hi.abortPass (s.inRecord_iff.mpr (.inl hp)) ha (by simp [ResultCode.code])
  | field v k tr hr hk => exact hi.field hr hk
  | accept v tr hr => exact hi.nextRecord hr.phase hr.free (s.recordCounted_commit tr v)
  | reject v tr hr => exact hi.nextRecord hr.phase hr.free (s.recordCounted_reject tr v)
  | recordNonData c tr hp ha _ =>
    exact hi.abortPass hp ha (by cases c <;> simp [ResultCode.code])
  | deliver hp => exact hi.deliver hp

/-- The register file and the buffer at their reset values (R46). -/
theorem State.registersLegal_resetWith {c : Config} (hc : c.legal = true) :
    (State.resetWith c).RegistersLegal := by
  obtain ⟨⟨hmin, -⟩, -⟩ := (Config.legal_iff c).mp hc
  refine ⟨List.length_replicate .., (by decide : StatusLegal 0#16), BitVec.le_refl _, Nat.zero_le _,
    Nat.zero_le _, fun _ => rfl, fun h => ?_⟩
  exact absurd h (by decide : ¬ statusLastResult 0#16 = 0x1#4)

/-- A block at its reset values meets the invariant, whatever the transport still owes (R46, R201). -/
theorem State.resetBlock_inv {s : State} {tr : Transport} {ab : Option Width} {al : AlignmentPhase}
    (hc : s.config.legal = true) (hab : ∀ w, ab = some w → tr.discard w = .waiting) :
    ({ s.resetBlock with
      outstanding := none, transport := tr, abandoned := ab, alignment := al } : State).Inv where
  config := hc
  registers := State.registersLegal_resetWith hc
  pass := fun h => absurd h (by simp [State.inPass_eq, State.resetBlock, State.resetWith])
  scan := by simp [State.ScanLegal, State.inScan_iff, State.resetBlock, State.resetWith]
  record := by simp [State.RecordLegal, State.inRecord_iff, State.resetBlock, State.resetWith]
  ports := ⟨fun _ => rfl, by simp [State.resetBlock, State.resetWith], by simp, by simp,
    fun w hw => ⟨rfl, hab w hw⟩⟩

/-- Settles O38: the reset state is a block at its reset values, with nothing owed. -/
theorem invariantHoldsAtReset : Obligations.InvariantHoldsAtReset := by
  unfold Obligations.InvariantHoldsAtReset
  have hreset : ∀ c : Config, c.legal = true → (State.resetWith c).Inv := fun c hc =>
    State.resetBlock_inv (s := State.resetWith c) (tr := .oracle []) (ab := none) (al := .aligned) hc (by simp)
  exact ⟨hreset Config.default (by decide), hreset⟩

/-- Every move of the environment keeps the invariant. -/
theorem EnvTo.inv {s t : State} {m : Move} (h : EnvTo s m t) (hi : s.Inv) : t.Inv := by
  obtain ⟨hidle, hresp, hbyte, hword, hab⟩ := hi.ports
  cases h with
  | offer | hostReady => exact hi.withPorts _ _
  | arrive _ tr _ ha =>
    exact ⟨hi.config, hi.registers, hi.pass, hi.scan, hi.record, hidle, hresp, hbyte, hword, by simp [ha]⟩
  | arriveOwed _ tr w _ ha hd =>
    have ho := (hab w ha).1
    exact ⟨hi.config, hi.registers, hi.pass, hi.scan, hi.record, hidle, hresp, hbyte, hword, by simp [ha, ho, hd]⟩
  | arriveLate =>
    exact ⟨hi.config, hi.registers, hi.pass, hi.scan, hi.record, hidle, hresp, hbyte, hword, by simp⟩
  | reset ho =>
    have hs : s.resetBlock = { s.resetBlock with
        outstanding := none, transport := s.transport, abandoned := s.abandoned, alignment := s.alignment } := by
      apply State.ext <;> simp [ho]
    rw [hs]
    exact State.resetBlock_inv hi.config fun w hw => (hab w hw).2
  | resetOwed w ho hd => exact State.resetBlock_inv hi.config (by simp [hd])
  | resetLate => exact State.resetBlock_inv hi.config (by simp)

/-- A step keeps the invariant. -/
theorem State.Inv.step {s t : State} (hi : s.Inv) (h : step s = .next t) : t.Inv := by
  obtain ⟨-, ⟨-, he⟩ | ⟨-, he⟩⟩ := step_effect h
  · exact he.inv hi.dropMove
  · exact he.inv hi.dropMove

/-- Settles O39: each effect of the block and each move of the environment keeps every clause of the invariant. -/
theorem everyStepKeepsTheInvariant : Obligations.EveryStepKeepsTheInvariant := by
  unfold Obligations.EveryStepKeepsTheInvariant
  exact fun _ _ hi h => hi.step h

end Sys2Proof.Machine

/-! PROOFS. The three decoders and the encoder are inverse to each other (30_encoding.md R80, R85, R91, R92), and what
an illegal command word is and does (R92, R162). -/

namespace Sys2Proof

/-! ### The encoder, row by row -/

@[simp] theorem decodeCommand_update : decodeCommand (commandWord 0x01#8 0x0000#16) = .update := by
  simp [decodeCommand_eq]

@[simp] theorem decodeCommand_getDetection (index : U16) :
    decodeCommand (commandWord 0x02#8 index) = .getDetection index := by
  simp [decodeCommand_eq]

@[simp] theorem decodeCommand_getAll : decodeCommand (commandWord 0x03#8 0x0000#16) = .getAll := by
  simp [decodeCommand_eq]

@[simp] theorem decodeCommand_readReg (reg : U16) :
    decodeCommand (commandWord 0x04#8 reg) = .readReg reg := by
  simp [decodeCommand_eq]

/-- An ILLEGAL form is well-formed where no row matches its word. -/
theorem wellFormed_illegal (word : U32) :
    (Instr.illegal word).wellFormed = true ↔ decodeCommand word = .illegal word := by
  simp [decodeCommand_eq_illegal_iff, Instr.wellFormed]

/-- A SCAN_OTHER form is well-formed where no class of R80 takes its word. -/
theorem wellFormed_scanOther (word : U16) :
    (Instr.scanOther word).wellFormed = true ↔ decodeScan word = .scanOther word := by
  rcases decodeScan_cases word with ⟨rfl, hd⟩ | ⟨rfl, hd⟩ | ⟨rfl, hd⟩ | ⟨rfl, hd⟩ | ⟨h0, h1, h2, h3, hd⟩
  iterate 4 simp [hd, Instr.wellFormed, scanClassWords]
  simp [hd, Instr.wellFormed, scanClassWords, h0, h1, h2, h3]

/-- A REC_SYNC_BAD form is well-formed where its word is no sync word (R85). -/
theorem wellFormed_recSyncBad (word : U16) :
    (Instr.recSyncBad word).wellFormed = true ↔ decodeRecord word = .recSyncBad word := by
  rcases decodeRecord_cases word with ⟨rfl, hd⟩ | ⟨rfl, hd⟩ | ⟨h0, h1, hd⟩
  iterate 2 simp [hd, Instr.wellFormed, recordSyncWords]
  simp [hd, Instr.wellFormed, recordSyncWords, h0, h1]

/-- Settles O2: the word of a row decodes to the row, and a catch-all form is well-formed exactly where its word
decodes to it. -/
theorem decodeOfEncodeIsTheInstruction : Obligations.DecodeOfEncodeIsTheInstruction := by
  unfold Obligations.DecodeOfEncodeIsTheInstruction
  intro i hw
  cases i with
  | update => exact decodeCommand_update
  | getDetection index => exact decodeCommand_getDetection index
  | getAll => exact decodeCommand_getAll
  | readReg reg => exact decodeCommand_readReg reg
  | illegal word => exact (wellFormed_illegal word).mp hw
  | scanIdleZero => exact decodeScan_zero
  | scanSyncNormal => exact decodeScan_syncNormal
  | scanSyncColorCode => exact decodeScan_syncColorCode
  | scanOutOfSync => exact decodeScan_outOfSync
  | scanOther word => exact (wellFormed_scanOther word).mp hw
  | recSyncNormal => exact decodeRecord_syncNormal
  | recSyncColorCode => exact decodeRecord_syncColorCode
  | recSyncBad word => exact (wellFormed_recSyncBad word).mp hw

/-! ### The decoders, word by word -/

/-- The five rows of a command word, each with the word that it stands for (R91, R92). -/
theorem decodeCommand_cases (word : U32) :
    (decodeCommand word = .update ∧ word = commandWord 0x01#8 0x0000#16) ∨
      (∃ index, decodeCommand word = .getDetection index ∧ word = commandWord 0x02#8 index) ∨
      (decodeCommand word = .getAll ∧ word = commandWord 0x03#8 0x0000#16) ∨
      (∃ reg, decodeCommand word = .readReg reg ∧ word = commandWord 0x04#8 reg) ∨
      decodeCommand word = .illegal word := by
  simp only [word_eq_commandWord]
  have hd := decodeCommand_eq word
  repeat' split at hd
  · next hr h => exact .inl ⟨hd, h.1, hr, h.2⟩
  · next hr _ h => exact .inr (.inl ⟨_, hd, h, hr, rfl⟩)
  · next hr _ _ h => exact .inr (.inr (.inl ⟨hd, h.1, hr, h.2⟩))
  · next hr _ _ _ h => exact .inr (.inr (.inr (.inl ⟨_, hd, h, hr, rfl⟩)))
  · exact .inr (.inr (.inr (.inr hd)))
  · exact .inr (.inr (.inr (.inr hd)))

/-- Settles O3: by the rows of each format; a catch-all row holds its word. -/
theorem encodeOfDecodeIsTheWord : Obligations.EncodeOfDecodeIsTheWord := by
  unfold Obligations.EncodeOfDecodeIsTheWord
  intro c
  cases c with
  | cmd32 word =>
    rw [show decode (.cmd32 word) = decodeCommand word from rfl]
    rcases decodeCommand_cases word with ⟨hd, hw⟩ | ⟨_, hd, hw⟩ | ⟨hd, hw⟩ | ⟨_, hd, hw⟩ | hd <;> rw [hd]
    iterate 4 exact ⟨by rw [encode, hw], rfl⟩
    exact ⟨rfl, (wellFormed_illegal word).mpr hd⟩
  | scan16 word =>
    rw [show decode (.scan16 word) = decodeScan word from rfl]
    rcases decodeScan_cases word with ⟨hw, hd⟩ | ⟨hw, hd⟩ | ⟨hw, hd⟩ | ⟨hw, hd⟩ | ⟨_, _, _, _, hd⟩ <;> rw [hd]
    iterate 4 exact ⟨by rw [encode, hw], rfl⟩
    exact ⟨rfl, (wellFormed_scanOther word).mpr hd⟩
  | rec16 word =>
    rw [show decode (.rec16 word) = decodeRecord word from rfl]
    rcases decodeRecord_cases word with ⟨hw, hd⟩ | ⟨hw, hd⟩ | ⟨_, _, hd⟩ <;> rw [hd]
    iterate 2 exact ⟨by rw [encode, hw], rfl⟩
    exact ⟨rfl, (wellFormed_recSyncBad word).mpr hd⟩

/-! ### Illegal command words -/

/-- A legal word has RSVD 0, a row's OPCODE, and ARG 0 where the row fixes it (R91, R92). -/
theorem decodeCommand_ne_illegal_iff (word : U32) :
    decodeCommand word ≠ .illegal word ↔
      rsvdField word = 0x00#8 ∧
        ((opcodeField word = 0x01#8 ∨ opcodeField word = 0x03#8) ∧ argField word = 0x0000#16 ∨
          opcodeField word = 0x02#8 ∨ opcodeField word = 0x04#8) := by
  rw [decodeCommand_eq]
  split_ifs with hr h1 h2 h3 h4
  · simp [hr, h1]
  · simp [hr, h2]
  · simp [hr, h3]
  · simp [hr, h4]
  · simp only [not_and] at h1 h3
    simpa [hr, h2, h4, or_imp] using ⟨h1, h3⟩
  · simp [hr]

/-- An OPCODE is 0, one of the four rows', or at least 5 (R92). -/
theorem opcode_cases (op : U8) :
    op = 0x00#8 ∨ 5 ≤ op.toNat ↔ op ≠ 0x01#8 ∧ op ≠ 0x02#8 ∧ op ≠ 0x03#8 ∧ op ≠ 0x04#8 := by
  bv_omega

/-- The illegal words by their fields (R92). -/
theorem decodeCommand_eq_illegal_iff_fields (word : U32) :
    decodeCommand word = .illegal word ↔
      opcodeField word = 0x00#8 ∨ 5 ≤ (opcodeField word).toNat ∨ rsvdField word ≠ 0x00#8 ∨
        ((opcodeField word = 0x01#8 ∨ opcodeField word = 0x03#8) ∧ argField word ≠ 0x0000#16) := by
  rw [← not_iff_not, ← ne_eq, decodeCommand_ne_illegal_iff]
  have hop := opcode_cases (opcodeField word)
  grind

/-- Settles O5: the rows and the fields of the word say the same of it, and its meaning is the latch and the single
word of the response. -/
theorem illegalCommandWordsAreAnswered : Obligations.IllegalCommandWordsAreAnswered := by
  unfold Obligations.IllegalCommandWordsAreAnswered
  exact fun word => ⟨decodeCommand_eq_illegal_iff word, decodeCommand_eq_illegal_iff_fields word, fun _ => rfl⟩

end Sys2Proof

/-! PROOFS. Which working registers a phase may still read (10_state.md R27, R113): every other one is dead there, and
no run can tell what it holds. -/

namespace Sys2Proof.Machine

/-! ### The live registers of a phase -/

/-- All that the scan asks of PREV (R115 to R117): whether it is `0x0000`, and whether it is `0xAA55`. -/
def prevClass (p : U16) : U16 :=
  if p = 0x0000#16 then 0x0000#16 else if p = 0xAA55#16 then 0xAA55#16 else sentinel

@[simp] theorem prevClass_eq_zero (p : U16) : prevClass p = 0x0000#16 ↔ p = 0x0000#16 := by
  unfold prevClass; split_ifs with h0 h1 <;> simp [*, sentinel]

@[simp] theorem prevClass_eq_syncNormal (p : U16) : prevClass p = 0xAA55#16 ↔ p = 0xAA55#16 := by
  unfold prevClass; split_ifs with h0 h1 <;> simp [*, sentinel]

theorem prevClass_of_ne {p : U16} (h0 : p ≠ 0x0000#16) (h1 : p ≠ 0xAA55#16) : prevClass p = sentinel := by
  simp [prevClass, h0, h1]

@[simp] theorem prevClass_prevClass (p : U16) : prevClass (prevClass p) = prevClass p := by
  unfold prevClass; split_ifs <;> simp_all [sentinel]

/-- Field register number `j` has been written in the record that the block is reading (R130). -/
abbrev State.HasRead (s : State) (j : Nat) : Prop := s.phase = .recField ∧ j < s.k.number

/-- The state with every working register that its phase writes before it reads put at its reset value. -/
def State.live (s : State) : State :=
  { s with
    k := if s.phase = .recField then s.k else .checksum
    cmdOp := if s.inPass then s.cmdOp else 0#8
    cmdArg := if s.inPass then s.cmdArg else 0#16
    prev := if s.phase = .scanWord then prevClass s.prev else sentinel
    cur := if s.phase = .scanByte then s.cur else 0#16
    scnt := if s.inPass then s.scnt else 0#16
    i := if s.inRecord then s.i else 0#16
    btype := if s.phase = .recField then s.btype else .normal
    tScan := if s.inRecord then s.tScan else .normal
    nrec := if s.inPass then s.nrec else 0#16
    nacc := if s.inPass then s.nacc else 0#16
    fCk := if s.HasRead 0 then s.fCk else 0#16
    fSig := if s.HasRead 1 then s.fSig else 0#16
    fX := if s.HasRead 2 then s.fX else 0#16
    fY := if s.HasRead 3 then s.fY else 0#16
    fW := if s.HasRead 4 then s.fW else 0#16
    fH := if s.HasRead 5 then s.fH else 0#16
    fAng := if s.HasRead 6 then s.fAng else 0#16 }

/-- Outside a pass no working register is live (R27). -/
theorem State.live_of_not_inPass {s : State} (h : s.phase = .idle ∨ s.phase = .respond) :
    s.live = s.forgetWorking := by
  rcases h with h | h <;>
    simp [State.live, State.forgetWorking, State.inPass, State.inScan, State.inRecord, h]

theorem State.live_live (s : State) : s.live.live = s.live := by
  rcases h : s.phase
  case recField =>
    cases hk : s.k <;> simp [State.live, State.inPass, State.inScan, State.inRecord, h, hk, FieldNo.number]
  all_goals simp [State.live, State.inPass, State.inScan, State.inRecord, h]

/-- A result with `f` applied to its next state. -/
def mapNext (f : State → State) : Result State → Result State
  | .next s => .next (f s)
  | .fault e => .fault e
  | .refused e => .refused e

/-! ### One step cannot tell a state from its live part -/

/-- Two results whose next states have the same live part. -/
abbrev SameLive (r r' : Result State) : Prop := mapNext State.live r = mapNext State.live r'

theorem idleStep_live (s : State) : SameLive (idleStep s.live) (idleStep s) := by
  simp only [SameLive, idleStep]
  rw [show s.live.commands = s.commands from rfl]
  cases hc : s.commands with
  | nil => simp only [mapNext, State.live_live]
  | cons w ws =>
    simp only [decode]
    rcases decodeCommand_cases w with ⟨hd, -⟩ | ⟨_, hd, -⟩ | ⟨hd, -⟩ | ⟨_, hd, -⟩ | hd <;>
      simp only [hd, exec_next, mapNext] <;> rfl

/-- A request cannot tell a state from its live part where the use of its response cannot. -/
theorem State.request_live {α : Type} {s : State} {w : Width} {reply : Reply α}
    {go : Response α → State → Result State}
    (h : ∀ r tr, SameLive (go r (s.live.gotResponse tr)) (go r (s.gotResponse tr))) :
    SameLive (s.live.request w reply go) (s.request w reply go) := by
  simp only [SameLive, State.request]
  rw [show s.live.abandoned = s.abandoned from rfl]
  cases s.abandoned with
  | some _ => simp only [mapNext, State.live_live]
  | none =>
    cases reply with
    | answered r tr => exact h r tr
    | unfit => rfl
    | waiting =>
      exact congrArg (fun u : State => Host.Outcome.next { u with outstanding := some w, abandoned := none })
        s.live_live

theorem State.live_scanWord {s : State} (h : s.phase = .scanWord) :
    s.live = { s.forgetWorking with
      cmdOp := s.cmdOp, cmdArg := s.cmdArg, nrec := s.nrec, nacc := s.nacc, scnt := s.scnt
      prev := prevClass s.prev } := by
  simp [State.live, State.forgetWorking, State.inPass, State.inScan, State.inRecord, h]

theorem State.live_scanByte {s : State} (h : s.phase = .scanByte) :
    s.live = { s.forgetWorking with
      cmdOp := s.cmdOp, cmdArg := s.cmdArg, nrec := s.nrec, nacc := s.nacc, scnt := s.scnt
      cur := s.cur } := by
  simp [State.live, State.forgetWorking, State.inPass, State.inScan, State.inRecord, h]

theorem State.live_recType {s : State} (h : s.phase = .recType) :
    s.live = { s.forgetWorking with
      cmdOp := s.cmdOp, cmdArg := s.cmdArg, nrec := s.nrec, nacc := s.nacc, scnt := s.scnt
      i := s.i, tScan := s.tScan } := by
  simp [State.live, State.forgetWorking, State.inPass, State.inScan, State.inRecord, h]

/-- Two choices by equivalent conditions. -/
theorem sameLive_ite {p q : Prop} [Decidable p] [Decidable q] {s t s' t' : State} (h : p ↔ q)
    (hs : s.live = s'.live) (ht : t.live = t'.live) :
    SameLive (.next (if p then s else t)) (.next (if q then s' else t')) := by
  by_cases hp : p
  · rw [if_pos hp, if_pos (h.mp hp)]; exact congrArg Host.Outcome.next hs
  · rw [if_neg hp, if_neg (mt h.mpr hp)]; exact congrArg Host.Outcome.next ht

/-- A scan word tests PREV only for what its class tells (R115 to R117). -/
theorem exec_decodeScan_live {s : State} {tr : Transport} (v : U16) (hp : s.phase = .scanWord) :
    SameLive (exec (decodeScan v) (s.live.gotResponse tr)) (exec (decodeScan v) (s.gotResponse tr)) := by
  have hzero : prevClass s.prev = zeroWord ↔ s.prev = zeroWord := prevClass_eq_zero s.prev
  have hsync : prevClass s.prev = syncNormal ↔ s.prev = syncNormal := prevClass_eq_syncNormal s.prev
  rw [State.live_scanWord hp]
  rcases decodeScan_cases v with ⟨-, hd⟩ | ⟨-, hd⟩ | ⟨-, hd⟩ | ⟨-, hd⟩ | ⟨-, -, -, -, hd⟩ <;>
    rw [hd, exec_next, exec_next]
  · exact sameLive_ite hzero rfl rfl
  · exact sameLive_ite hsync rfl rfl
  · exact sameLive_ite hsync rfl rfl
  · rfl
  · rfl

theorem scanWordStep_live {s : State} (hp : s.phase = .scanWord) :
    SameLive (scanWordStep s.live) (scanWordStep s) := by
  simp only [scanWordStep]
  rw [show s.live.scnt = s.scnt by rw [State.live_scanWord hp], show s.live.config = s.config from rfl,
    show s.live.transport = s.transport from rfl]
  split
  · rw [State.live_scanWord hp]; rfl
  · refine State.request_live fun r tr => ?_
    cases r with
    | data v => exact exec_decodeScan_live v hp
    | nonData c => rw [State.live_scanWord hp]; rfl

theorem scanByteStep_live {s : State} (hp : s.phase = .scanByte) :
    SameLive (scanByteStep s.live) (scanByteStep s) := by
  refine State.request_live fun r tr => ?_
  rw [State.live_scanByte hp]
  cases r <;> rfl

theorem recTypeStep_live {s : State} (hp : s.phase = .recType) :
    SameLive (recTypeStep s.live) (recTypeStep s) := by
  refine State.request_live fun r tr => ?_
  cases r with
  | data v =>
    simp only [takeSyncResponse, decode]
    rcases decodeRecord_cases v with ⟨rfl, hd⟩ | ⟨rfl, hd⟩ | ⟨_, _, hd⟩ <;>
      rw [hd, State.live_recType hp] <;> rfl
  | nonData c => rw [State.live_recType hp]; rfl

theorem respondStep_live {s : State} (hp : s.phase = .respond) :
    SameLive (respondStep s.live) (respondStep s) := by
  simp only [respondStep]
  rw [show s.live.hostReady = s.hostReady from rfl]
  split
  · have hd : s.forgetWorking.deliver = s.deliver.forgetWorking := by
      simp only [State.deliver, show s.forgetWorking.response = s.response from rfl]
      split <;> rfl
    have hph : s.deliver.phase = .idle ∨ s.deliver.phase = .respond := by
      rcases s.deliver_cases with ⟨_, h⟩ | ⟨_, _, h⟩ | ⟨_, _, _, _, h⟩ <;> simp [h, hp]
    rw [State.live_of_not_inPass (.inr hp), hd]
    exact congrArg Host.Outcome.next
      ((congrArg State.live (State.live_of_not_inPass hph).symm).trans s.deliver.live_live)
  · simp only [SameLive, mapNext, State.live_live]

/-- Once the last body word of a record is read and its fields are closed, every field register is live (R130, R133). -/
theorem State.lastField_live {s : State} {tr : Transport} {v : U16} (hp : s.phase = .recField)
    (hk : s.k.next s.btype = none) :
    s.live.lastField tr v = { s.lastField tr v with prev := sentinel, cur := 0#16 } := by
  cases hk' : s.k <;> cases hb : s.btype <;> simp [hk', hb, FieldNo.next] at hk <;>
    simp [State.lastField, State.gotResponse, State.live, State.setField, State.closeFields, hp, hk', hb,
      State.inPass, State.inScan, State.inRecord, FieldNo.number]

/-- A body word that is not the last of its record makes its own field register live (R130). -/
theorem State.field_live {s : State} {tr : Transport} {v : U16} {k : FieldNo} (hp : s.phase = .recField)
    (hk : s.k.next s.btype = some k) :
    ({ (s.live.gotResponse tr).setField s.k v with k := k } : State).live =
      ({ (s.gotResponse tr).setField s.k v with k := k } : State).live := by
  cases hk' : s.k <;> cases hb : s.btype <;> simp [hk', hb, FieldNo.next] at hk <;> subst hk <;>
    simp [State.gotResponse, State.live, State.setField, hp, hk', hb, State.inPass, State.inScan,
      State.inRecord, State.HasRead, FieldNo.number]

/-- PREV and CUR are dead once the scan has found a frame. -/
theorem State.nextRecord_live (s : State) (p c : U16) :
    ({ s with prev := p, cur := c } : State).nextRecord.live = s.nextRecord.live := by
  simp only [State.nextRecord]
  split <;> rfl

theorem State.endRecord_live {r r' : State} {p c : U16}
    (h : r'.closeFields = { r.closeFields with prev := p, cur := c }) :
    SameLive r'.endRecord r.endRecord := by
  simp only [State.endRecord, h]
  change SameLive (if r.closeFields.sum = r.closeFields.fCk then
      if r.closeFields.i.toNat < r.closeFields.config.nSlots then
        .next ({ r.closeFields.commit with prev := p, cur := c } : State).nextRecord
      else .fault .slotOutOfRange
    else .next ({ r.closeFields.reject with prev := p, cur := c } : State).nextRecord) _
  split_ifs
  · exact congrArg Host.Outcome.next (State.nextRecord_live _ p c)
  · rfl
  · exact congrArg Host.Outcome.next (State.nextRecord_live _ p c)

/-- In REC_FIELD the scan's words and some of the field registers are dead. -/
theorem State.live_recField {s : State} (hp : s.phase = .recField) :
    ∃ ck sig x y w h ang, s.live = { s with
      prev := sentinel, cur := 0#16, fCk := ck, fSig := sig, fX := x, fY := y, fW := w, fH := h, fAng := ang } := by
  refine ⟨s.live.fCk, s.live.fSig, s.live.fX, s.live.fY, s.live.fW, s.live.fH, s.live.fAng, ?_⟩
  simp [State.live, State.inPass, State.inScan, State.inRecord, hp]

theorem recFieldStep_live {s : State} (hp : s.phase = .recField) :
    SameLive (recFieldStep s.live) (recFieldStep s) := by
  obtain ⟨ck, sig, x, y, w, h, ang, hl⟩ := State.live_recField hp
  have hk : s.live.k = s.k := by rw [hl]
  have hb : s.live.btype = s.btype := by rw [hl]
  refine State.request_live fun r tr => ?_
  cases r with
  | nonData c => rw [hl]; rfl
  | data v =>
    simp only [State.takeBodyWord, State.takeField, State.gotResponse_k, State.gotResponse_btype, hk, hb]
    cases hn : s.k.next s.btype with
    | some k => exact congrArg Host.Outcome.next (State.field_live hp hn)
    | none =>
      have hlast := State.lastField_live (tr := tr) (v := v) hp hn
      rw [State.lastField, hk] at hlast
      exact State.endRecord_live hlast

/-- A step of the block cannot tell a state from its live part. -/
theorem blockStep_live (s : State) : SameLive (blockStep s.live) (blockStep s) := by
  rcases hp : s.phase
  · rw [blockStep_idle hp, blockStep_idle (s := s.live) hp]; exact idleStep_live s
  · rw [blockStep_scanWord hp, blockStep_scanWord (s := s.live) hp]; exact scanWordStep_live hp
  · rw [blockStep_scanByte hp, blockStep_scanByte (s := s.live) hp]; exact scanByteStep_live hp
  · rw [blockStep_recType hp, blockStep_recType (s := s.live) hp]; exact recTypeStep_live hp
  · rw [blockStep_recField hp, blockStep_recField (s := s.live) hp]; exact recFieldStep_live hp
  · rw [blockStep_respond hp, blockStep_respond (s := s.live) hp]; exact respondStep_live hp

/-- The transport's fields are no working registers. -/
theorem State.live_withTransport (s : State) (tr : Transport) (a : Option Width) (al : AlignmentPhase) :
    ({ s.live with transport := tr, abandoned := a, alignment := al } : State).live =
      ({ s with transport := tr, abandoned := a, alignment := al } : State).live :=
  congrArg (fun u : State => { u with transport := tr, abandoned := a, alignment := al }) s.live_live

theorem feedTransport_live (m : Move) (s : State) :
    SameLive (feedTransport m s.live) (feedTransport m s) := by
  simp only [feedTransport]
  rw [show s.live.transport = s.transport from rfl]
  cases s.transport.feed m with
  | none => rfl
  | some tr =>
    simp only [State.settleAbandoned]
    rw [show s.live.abandoned = s.abandoned from rfl]
    cases ha : s.abandoned with
    | none => exact congrArg Host.Outcome.next (s.live_withTransport tr none s.alignment)
    | some w =>
      simp only [State.dropResponse]
      cases tr.discard w with
      | done tr' data =>
        exact congrArg Host.Outcome.next (s.live_withTransport tr' none (s.alignment.after w data))
      | waiting => exact congrArg Host.Outcome.next (s.live_withTransport tr (some w) s.alignment)
      | unfit => rfl

/-- A move of the environment but reset does the same to a state and to its live part; reset gives them one state. -/
theorem envMove_live (m : Move) (s : State) : SameLive (envMove m s.live) (envMove m s) := by
  cases m with
  | block => exact congrArg Host.Outcome.next s.live_live
  | offer c =>
    exact congrArg (fun u : State => Host.Outcome.next { u with commands := s.commands ++ [c] }) s.live_live
  | hostReady b => exact congrArg (fun u : State => Host.Outcome.next { u with hostReady := b }) s.live_live
  | reset => rfl
  | token x => exact feedTransport_live (.token x) s
  | item x => exact feedTransport_live (.item x) s
  | endStream => exact feedTransport_live .endStream s

theorem step_live (s : State) : SameLive (step s.live) (step s) := by
  by_cases hc : s.config.legal = true
  · by_cases hm : nextMove s = .block
    · rw [step_block hc hm, step_block (s := s.live) hc hm]
      exact blockStep_live s.dropMove
    · rw [step_env hc hm, step_env (s := s.live) hc hm]
      exact envMove_live (nextMove s) s.dropMove
  · simp [step, show s.live.config = s.config from rfl, hc, SameLive]

/-! ### No run can tell them -/

/-- Two states with the same live part step to results with the same live part. -/
theorem sameLive_step {s t : State} (h : s.live = t.live) : SameLive (step s) (step t) :=
  (step_live s).symm.trans ((congrArg (fun u => mapNext State.live (step u)) h).trans (step_live t))

/-- Results with the same live part are the same, the working registers aside. -/
theorem SameLive.sameButWorking {r r' : Result State} (h : SameLive r r') : SameButWorking r r' := by
  cases r <;> cases r' <;>
    simp only [SameLive, mapNext, reduceCtorEq, Host.Outcome.next.injEq, Host.Outcome.refused.injEq] at h
  · next s t =>
    have hforget : s.live.forgetWorking = t.live.forgetWorking := congrArg State.forgetWorking h
    exact hforget
  · rfl
  · exact h

/-- By induction on the number of steps, each of which keeps the live parts equal. -/
theorem runSteps_sameLive (n : Nat) {s t : State} (h : s.live = t.live) :
    SameLive (runSteps n s) (runSteps n t) := by
  induction n generalizing s t with
  | zero => exact congrArg Host.Outcome.next h
  | succ n ih =>
    have hstep := sameLive_step h
    simp only [runSteps]
    cases hs : step s <;> cases ht : step t <;> rw [hs, ht] at hstep <;>
      simp only [SameLive, mapNext, reduceCtorEq, Host.Outcome.next.injEq, Host.Outcome.refused.injEq] at hstep
    · exact ih hstep
    · rw [hstep]

/-- Settles O50: in IDLE no working register is live. -/
theorem workingRegistersAreWrittenBeforeRead : Obligations.WorkingRegistersAreWrittenBeforeRead := by
  unfold Obligations.WorkingRegistersAreWrittenBeforeRead
  intro s t n hs h
  have ht : t.phase = .idle := (congrArg State.phase h).symm.trans hs
  have hlive : s.live = t.live := by
    rw [State.live_of_not_inPass (.inl hs), State.live_of_not_inPass (.inl ht), h]
  exact (runSteps_sameLive n hlive).sameButWorking

/-- Settles O51: of PREV only its class is live. -/
theorem sentinelChoiceCannotBeSeen : Obligations.SentinelChoiceCannotBeSeen := by
  unfold Obligations.SentinelChoiceCannotBeSeen
  intro s p n hp h0 h1 hp0 hp1
  have hclass : prevClass s.prev = prevClass p := by rw [prevClass_of_ne h0 h1, prevClass_of_ne hp0 hp1]
  have hlive : s.live = ({ s with prev := p } : State).live := by
    rw [State.live_scanWord hp, State.live_scanWord (s := { s with prev := p }) hp, hclass]
    rfl
  exact (runSteps_sameLive n hlive).sameButWorking

end Sys2Proof.Machine

/-! PROOFS. What a step short of reset writes: the parameters, the buffer, the event log and the register file
(10_state.md R28 to R44), each said once of a block's step and of a move of the environment. -/

namespace Sys2Proof.Machine

/-! ### The parameters (R6, R7) -/

theorem Effect.config_eq {s t : State} (h : Effect s t) : t.config = s.config := by
  cases h with
  | accept | reject => simp [State.lastField]
  | _ => simp

theorem EnvTo.config_eq {s t : State} {m : Move} (h : EnvTo s m t) : t.config = s.config := by
  cases h <;> rfl

theorem step_config_eq {s t : State} (h : step s = .next t) : t.config = s.config := by
  obtain ⟨-, ⟨-, he⟩ | ⟨-, he⟩⟩ := step_effect h
  · exact he.config_eq
  · exact he.config_eq

/-- Settles O44: no effect and no move writes the parameters. -/
theorem parametersNeverChange : Obligations.ParametersNeverChange := by
  unfold Obligations.ParametersNeverChange
  exact fun _ _ => step_config_eq

/-! ### The work of a pass: buffer, event log, NREC and NACC (R15, R25, R29, R44) -/

/-- The work that one step does for the running pass. -/
inductive PassWork (s t : State) : Prop where
  | none : t.slots = s.slots → t.events = s.events →
      (s.inPass = true → t.nrec = s.nrec ∧ t.nacc = s.nacc) → PassWork s t
  /-- An out-of-sync word is recorded (R118). -/
  | outOfSync : s.phase = .scanWord → t.slots = s.slots → t.events = s.events ++ [.outOfSync] →
      t.nrec = s.nrec → t.nacc = s.nacc → PassWork s t
  /-- Record I is accepted (R137). -/
  | accepted (d : Detection) : s.phase = .recField → t.slots = s.slots.set s.i.toNat (.present d) →
      t.events = s.events → t.nrec = s.nrec + 1#16 → t.nacc = s.nacc + 1#16 → PassWork s t
  /-- Record I is rejected (R138). -/
  | rejected (sig : U16) : s.phase = .recField → t.slots = s.slots →
      t.events = s.events ++ [.checksumFault s.i sig] → t.nrec = s.nrec + 1#16 → t.nacc = s.nacc → PassWork s t

theorem Effect.passWork {s t : State} (h : Effect s t) : PassWork s t := by
  cases h with
  | acceptPass w ws i hp =>
    exact .none rfl rfl fun hin => by simp [State.inPass_eq, hp] at hin
  | scanOutOfSync tr hr => exact .outOfSync hr.phase rfl rfl rfl rfl
  | accept v tr hr hk hs hi =>
    exact .accepted (s.lastField tr v).detection hr.phase (by simp) (by simp [State.lastField])
      (by simp [State.lastField]) (by simp)
  | reject v tr hr hk hs =>
    exact .rejected (s.lastField tr v).fSig hr.phase (by simp) (by simp [State.lastField])
      (by simp [State.lastField]) (by simp)
  | _ => exact .none (by simp) (by simp) fun _ => by simp

theorem EnvTo.passWork {s t : State} {m : Move} (h : EnvTo s m t) (hm : m ≠ .reset) : PassWork s t := by
  cases h with
  | reset | resetOwed | resetLate => exact absurd rfl hm
  | offer | hostReady | arrive | arriveOwed | arriveLate => exact .none rfl rfl fun _ => ⟨rfl, rfl⟩

/-- A step short of reset does a pass's work, or none. -/
theorem step_passWork {s t : State} (h : step s = .next t) (hm : nextMove s ≠ .reset) : PassWork s t := by
  have hwork : PassWork s.dropMove t := by
    obtain ⟨-, ⟨-, he⟩ | ⟨-, he⟩⟩ := step_effect h
    · exact he.passWork
    · exact he.passWork hm
  cases hwork with
  | none h1 h2 h3 => exact .none h1 h2 h3
  | outOfSync hp h1 h2 h3 h4 => exact .outOfSync hp h1 h2 h3 h4
  | accepted d hp h1 h2 h3 h4 => exact .accepted d hp h1 h2 h3 h4
  | rejected sig hp h1 h2 h3 h4 => exact .rejected sig hp h1 h2 h3 h4

/-- Settles O43: the buffer is written only by a commit, which leaves a slot PRESENT. -/
theorem presentSlotsStayPresent : Obligations.PresentSlotsStayPresent := by
  unfold Obligations.PresentSlotsStayPresent
  intro s t j d h hm hj
  cases step_passWork h hm with
  | none hs => exact ⟨d, hs ▸ hj⟩
  | outOfSync _ hs => exact ⟨d, hs ▸ hj⟩
  | rejected _ _ hs => exact ⟨d, hs ▸ hj⟩
  | accepted d' _ hs =>
    have hlt : j < s.slots.length := (List.getElem?_eq_some_iff.mp hj).1
    rw [hs]
    by_cases hij : s.i.toNat = j
    · exact ⟨d', by rw [hij, List.getElem?_set_self hlt]⟩
    · exact ⟨d, by rw [List.getElem?_set_ne hij, hj]⟩

/-- Settles O45: only an out-of-sync word and a checksum fault are recorded, both inside a pass. -/
theorem eventLogGrowsOnlyInsideAPass : Obligations.EventLogGrowsOnlyInsideAPass := by
  unfold Obligations.EventLogGrowsOnlyInsideAPass
  intro s t h hm
  cases step_passWork h hm with
  | none _ he => exact ⟨[], by simp [he], by simp, by simp⟩
  | accepted _ _ _ he => exact ⟨[], by simp [he], by simp, by simp⟩
  | outOfSync hp _ he => exact ⟨_, he, le_rfl, fun _ => s.inPass_eq.mpr (.inl hp)⟩
  | rejected _ hp _ he => exact ⟨_, he, le_rfl, fun _ => s.inPass_eq.mpr (by simp [hp])⟩

/-! ### The register file (R33 to R40) -/

/-- The step from `s` to `t` ends a pass, whose counts the end-of-pass registers take (R156). -/
structure State.EndsPass (s t : State) : Prop where
  inPass : s.inPass = true
  phase : t.phase = .respond
  lastRecords : t.lastRecords = t.nrec
  lastAccepted : t.lastAccepted = t.nacc
  lastScanWords : t.lastScanWords = t.scnt

/-- The step from `s` to `t` ends no pass and writes no end-of-pass register. -/
structure State.KeepsPassRegisters (s t : State) : Prop where
  phase : s.inPass = true → t.phase ≠ .respond
  status : t.status = s.status
  lastRecords : t.lastRecords = s.lastRecords
  lastAccepted : t.lastAccepted = s.lastAccepted
  lastScanWords : t.lastScanWords = s.lastScanWords

theorem State.RecordCounted.endOfPass {s r : State} (h : s.RecordCounted r) (hp : s.phase = .recField) :
    s.EndsPass r.nextRecord ∨ s.KeepsPassRegisters r.nextRecord := by
  rcases r.nextRecord_cases with ⟨-, heq⟩ | ⟨-, heq⟩ <;> rw [heq]
  · exact .inr ⟨by simp, h.status, h.lastRecords, h.lastAccepted, h.lastScanWords⟩
  · exact .inl ⟨s.inPass_eq.mpr (by simp [hp]), rfl, rfl, rfl, rfl⟩

theorem Effect.endOfPass {s t : State} (h : Effect s t) : s.EndsPass t ∨ s.KeepsPassRegisters t := by
  cases h with
  | scanLimit hp => exact .inl ⟨s.inPass_eq.mpr (.inl hp), rfl, rfl, rfl, rfl⟩
  | scanIdle _ hr | scanNonData _ _ hr =>
    exact .inl ⟨s.inPass_eq.mpr (.inl hr.phase), rfl, rfl, rfl, rfl⟩
  | byteNonData _ _ hp => exact .inl ⟨s.inPass_eq.mpr (.inr (.inl hp)), rfl, rfl, rfl, rfl⟩
  | badSync _ _ hp => exact .inl ⟨s.inPass_eq.mpr (by simp [hp]), rfl, rfl, rfl, rfl⟩
  | recordNonData _ _ hp => exact .inl ⟨s.inPass_iff.mpr (.inr hp), rfl, rfl, rfl, rfl⟩
  | accept v tr hr => exact (s.recordCounted_commit tr v).endOfPass hr.phase
  | reject v tr hr => exact (s.recordCounted_reject tr v).endOfPass hr.phase
  | idleHold hp | acceptReg _ _ _ _ hp | acceptBad _ _ _ hp | notTaken hp | deliver hp =>
    exact .inr ⟨fun hin => by simp [State.inPass_eq, hp] at hin, by simp, by simp, by simp, by simp⟩
  | owed hin =>
    exact .inr ⟨fun _ hp => by simp [State.inPass_eq, hp] at hin, rfl, rfl, rfl, rfl⟩
  | waitWord _ _ hp =>
    refine .inr ⟨fun hin h => ?_, rfl, rfl, rfl, rfl⟩
    simp [State.inPass_eq, show s.phase = .respond from h] at hin
  | waitByte _ _ hp => exact .inr ⟨fun _ => by simp [hp], rfl, rfl, rfl, rfl⟩
  | field v k tr hr => exact .inr ⟨fun _ => by simp [hr.phase], by simp, by simp, by simp, by simp⟩
  | _ => exact .inr ⟨fun _ => by simp, rfl, rfl, rfl, rfl⟩

theorem EnvTo.endOfPass {s t : State} {m : Move} (h : EnvTo s m t) (hm : m ≠ .reset) :
    s.KeepsPassRegisters t := by
  have hphase : t.phase = s.phase := by
    cases h with
    | reset | resetOwed | resetLate => exact absurd rfl hm
    | _ => rfl
  refine ⟨fun hin hp => ?_, ?_, ?_, ?_, ?_⟩
  · rw [hphase] at hp
    simp [State.inPass_eq, hp] at hin
  all_goals
    cases h with
    | reset | resetOwed | resetLate => exact absurd rfl hm
    | _ => rfl

theorem step_endOfPass {s t : State} (h : step s = .next t) (hm : nextMove s ≠ .reset) :
    s.EndsPass t ∨ s.KeepsPassRegisters t := by
  have hend : s.dropMove.EndsPass t ∨ s.dropMove.KeepsPassRegisters t := by
    obtain ⟨-, ⟨-, he⟩ | ⟨-, he⟩⟩ := step_effect h
    · exact he.endOfPass
    · exact .inr (he.endOfPass hm)
  exact hend.imp (fun ⟨h1, h2, h3, h4, h5⟩ => ⟨h1, h2, h3, h4, h5⟩)
    fun ⟨h1, h2, h3, h4, h5⟩ => ⟨h1, h2, h3, h4, h5⟩

/-- OOS_COUNT, and the two fault registers, change only together with their event (R38 to R40). -/
structure State.CountersFollow (s t : State) : Prop where
  oos : t.oosCount = s.oosCount ∨
    (s.phase = .scanWord ∧ t.cur = 0x55AA#16 ∧ t.oosCount = s.oosCount + 1#16 ∧
      t.events = s.events ++ [.outOfSync])
  fault : (t.cksumFaultCount = s.cksumFaultCount ∧ t.lastFaultSig = s.lastFaultSig) ∨
    (s.phase = .recField ∧ t.cksumFaultCount = s.cksumFaultCount + 1#16 ∧
      t.lastFaultSig = t.fSig ∧ t.events = s.events ++ [.checksumFault s.i t.fSig])

theorem Effect.countersFollow {s t : State} (h : Effect s t) : s.CountersFollow t := by
  cases h with
  | scanOutOfSync tr hr => exact ⟨.inr ⟨hr.phase, rfl, rfl, rfl⟩, .inl ⟨rfl, rfl⟩⟩
  | reject v tr hr =>
    exact ⟨.inl (by simp [State.lastField]), .inr ⟨hr.phase, by simp [State.lastField], by simp,
      by simp [State.lastField]⟩⟩
  | accept v tr hr => exact ⟨.inl (by simp [State.lastField]), .inl (by simp [State.lastField])⟩
  | _ => exact ⟨.inl (by simp), .inl (by simp)⟩

theorem EnvTo.countersFollow {s t : State} {m : Move} (h : EnvTo s m t) (hm : m ≠ .reset) :
    s.CountersFollow t := by
  cases h with
  | reset | resetOwed | resetLate => exact absurd rfl hm
  | _ => exact ⟨.inl rfl, .inl ⟨rfl, rfl⟩⟩

theorem step_countersFollow {s t : State} (h : step s = .next t) (hm : nextMove s ≠ .reset) :
    s.CountersFollow t := by
  have hc : s.dropMove.CountersFollow t := by
    obtain ⟨-, ⟨-, he⟩ | ⟨-, he⟩⟩ := step_effect h
    · exact he.countersFollow
    · exact he.countersFollow hm
  exact ⟨hc.oos, hc.fault⟩

/-- Settles O46: the three register groups, each by its own case analysis over the effects. -/
theorem registersChangeOnlyByTheirRules : Obligations.RegistersChangeOnlyByTheirRules := by
  unfold Obligations.RegistersChangeOnlyByTheirRules
  intro s t h hm
  obtain ⟨hoos, hfault⟩ := step_countersFollow h hm
  refine ⟨?_, hoos, hfault⟩
  rcases step_endOfPass h hm with he | hk
  · exact .inr ⟨he.inPass, he.phase, he.lastRecords, he.lastAccepted, he.lastScanWords⟩
  · exact .inl ⟨hk.status, hk.lastRecords, hk.lastAccepted, hk.lastScanWords⟩

end Sys2Proof.Machine

/-! PROOFS. The account of a pass (42_controller.md R164, R165): which slots it has written, which it has not, and how
many records it has counted, kept by every step of the pass. -/

namespace Sys2Proof.Machine

/-- How many of a pass's events are checksum faults. -/
def faultCount (evs : List Event) : Nat := (evs.filter fun ev => ev ≠ .outOfSync).length

@[simp] theorem faultCount_nil : faultCount [] = 0 := rfl

@[simp] theorem faultCount_outOfSync (evs : List Event) : faultCount (evs ++ [.outOfSync]) = faultCount evs := by
  simp [faultCount]

@[simp] theorem faultCount_checksumFault (evs : List Event) (j sig : U16) :
    faultCount (evs ++ [.checksumFault j sig]) = faultCount evs + 1 := by
  simp [faultCount]

/-- What the pass that began with the buffer and the event log of `s` has done by the state `t`, `evs` being its own
events: NREC records are read, each of them accepted into its slot or rejected with its event. -/
structure PassAccount (s t : State) (evs : List Event) : Prop where
  events : t.events = s.events ++ evs
  unread : ∀ j, t.nrec.toNat ≤ j → t.slots[j]? = s.slots[j]?
  rejected : ∀ (j sig : U16), .checksumFault j sig ∈ evs →
    j.toNat < t.nrec.toNat ∧ t.slots[j.toNat]? = s.slots[j.toNat]?
  count : t.nrec.toNat = t.nacc.toNat + faultCount evs
  accepted : ∀ j : U16, j.toNat < t.nrec.toNat → (∀ sig, .checksumFault j sig ∉ evs) →
    ∃ d, t.slots[j.toNat]? = some (.present d)

/-- A command that runs a pass is accepted by `acceptPass` (R155). -/
theorem exec_of_runsPass {i : Instr} (h : runsPass i = true) (s : State) :
    exec i s = .next (s.acceptPass i) := by
  cases i with
  | update | getDetection | getAll => rfl
  | _ => simp [runsPass] at h

/-- A pass begins with nothing done. -/
theorem passAccount_acceptPass (s : State) (i : Instr) : PassAccount s (s.acceptPass i) [] where
  events := by simp
  unread := fun _ _ => rfl
  rejected := by simp
  count := rfl
  accepted := fun j hj => absurd hj (Nat.not_lt_zero _)

/-- In a record I is NREC, a slot of the buffer, and both counts can go up (R110, R130). -/
structure State.ReadsRecord (t : State) : Prop where
  index : t.i = t.nrec
  slot : t.i.toNat < t.slots.length
  nrec_succ : (t.nrec + 1#16).toNat = t.nrec.toNat + 1
  nacc_succ : (t.nacc + 1#16).toNat = t.nacc.toNat + 1

theorem State.Inv.readsRecord {t : State} (hi : t.Inv) (hp : t.phase = .recField) : t.ReadsRecord := by
  obtain ⟨hlt, hn, hle, -⟩ := hi.record.1 (t.inRecord_iff.mpr (.inr hp))
  obtain ⟨⟨-, hmax⟩, -⟩ := (Config.legal_iff _).mp hi.config
  have hlen := hi.registers.1
  rw [BitVec.le_def, hn] at hle
  exact ⟨hn.symm, by omega, hn ▸ toNat_add_one (by omega), toNat_add_one (by omega)⟩

/-! ### The work of one step in the account -/

section
variable {s t u : State} {evs : List Event}

theorem PassAccount.outOfSync (ha : PassAccount s t evs) (hs : u.slots = t.slots)
    (he : u.events = t.events ++ [.outOfSync]) (hn : u.nrec = t.nrec) (hna : u.nacc = t.nacc) :
    PassAccount s u (evs ++ [.outOfSync]) where
  events := by rw [he, ha.events, List.append_assoc]
  unread := by rw [hn, hs]; exact ha.unread
  rejected j sig hj := by
    rw [hn, hs]
    exact ha.rejected j sig (by simpa using hj)
  count := by rw [hn, hna, faultCount_outOfSync]; exact ha.count
  accepted j hj hno := by
    rw [hs]
    exact ha.accepted j (hn ▸ hj) fun sig hmem => hno sig (List.mem_append_left _ hmem)

theorem PassAccount.accept {d : Detection} (ha : PassAccount s t evs) (hr : t.ReadsRecord)
    (hs : u.slots = t.slots.set t.i.toNat (.present d)) (he : u.events = t.events)
    (hn : u.nrec = t.nrec + 1#16) (hna : u.nacc = t.nacc + 1#16) : PassAccount s u evs := by
  obtain ⟨hidx, hlt, hsn, hsa⟩ := hr
  have hother : ∀ j, j ≠ t.nrec.toNat → u.slots[j]? = t.slots[j]? := fun j hj => by
    rw [hs, List.getElem?_set_ne (by rw [hidx]; exact hj.symm)]
  refine ⟨by rw [he, ha.events], ?_, ?_, ?_, ?_⟩
  · intro j hj
    rw [hn, hsn] at hj
    rw [hother j (by omega)]
    exact ha.unread j (by omega)
  · intro j sig hj
    obtain ⟨hlow, heq⟩ := ha.rejected j sig hj
    rw [hother _ (by omega), hn, hsn]
    exact ⟨by omega, heq⟩
  · rw [hn, hna, hsn, hsa, ha.count]
    omega
  · intro j hj hno
    rw [hn, hsn] at hj
    by_cases hij : j.toNat = t.nrec.toNat
    · exact ⟨d, by rw [hs, hij, ← hidx, List.getElem?_set_self hlt]⟩
    · rw [hother _ hij]
      exact ha.accepted j (by omega) hno

theorem PassAccount.reject {sig : U16} (ha : PassAccount s t evs) (hr : t.ReadsRecord)
    (hs : u.slots = t.slots) (he : u.events = t.events ++ [.checksumFault t.i sig])
    (hn : u.nrec = t.nrec + 1#16) (hna : u.nacc = t.nacc) :
    PassAccount s u (evs ++ [.checksumFault t.i sig]) := by
  obtain ⟨hidx, -, hsn, -⟩ := hr
  refine ⟨by rw [he, ha.events, List.append_assoc], ?_, ?_, ?_, ?_⟩
  · intro j hj
    rw [hn, hsn] at hj
    rw [hs]
    exact ha.unread j (by omega)
  · intro j sig' hj
    rw [hs, hn, hsn]
    rcases List.mem_append.mp hj with hj | hj
    · obtain ⟨hlow, heq⟩ := ha.rejected j sig' hj
      exact ⟨by omega, heq⟩
    · obtain ⟨rfl, -⟩ : j = t.i ∧ sig' = sig := by simpa using hj
      rw [hidx]
      exact ⟨by omega, ha.unread _ le_rfl⟩
  · rw [hn, hna, hsn, faultCount_checksumFault, ha.count]
    omega
  · intro j hj hno
    rw [hn, hsn] at hj
    have hne : j ≠ t.i := fun h => hno sig (by simp [h])
    have hne' : j.toNat ≠ t.nrec.toNat := fun h => hne (hidx ▸ BitVec.eq_of_toNat_eq h)
    rw [hs]
    exact ha.accepted j (by omega) fun sig' hmem => hno sig' (List.mem_append_left _ hmem)

/-- Every step's work keeps the account. -/
theorem PassAccount.work (ha : PassAccount s t evs) (hi : t.Inv) (hin : t.inPass = true)
    (h : PassWork t u) : ∃ evs', PassAccount s u evs' := by
  cases h with
  | none hs he hcnt =>
    obtain ⟨hn, hna⟩ := hcnt hin
    obtain ⟨hev, hun, hrej, hcount, hacc⟩ := ha
    exact ⟨evs, by rw [he, hev], by rwa [hn, hs], by rwa [hn, hs], by rwa [hn, hna], by rwa [hn, hs]⟩
  | outOfSync _ hs he hn hna => exact ⟨_, ha.outOfSync hs he hn hna⟩
  | accepted _ hp hs he hn hna => exact ⟨_, ha.accept (hi.readsRecord hp) hs he hn hna⟩
  | rejected _ hp hs he hn hna => exact ⟨_, ha.reject (hi.readsRecord hp) hs he hn hna⟩

end

/-- The account of a pass is kept to its end, where the end-of-pass registers hold its counts (R156). -/
theorem PassReaches.account {s t : State} {i : Instr} (hi : (s.acceptPass i).Inv)
    (h : PassReaches (s.acceptPass i) t) :
    t.Inv ∧ (∃ evs, PassAccount s t evs) ∧
      (t.phase = .respond → t.lastRecords = t.nrec ∧ t.lastAccepted = t.nacc) := by
  induction h with
  | start => exact ⟨hi, ⟨[], passAccount_acceptPass s i⟩, by simp⟩
  | step hreach hin hm hstep ih =>
    obtain ⟨hinv, ⟨evs, hacc⟩, -⟩ := ih
    refine ⟨hinv.step hstep, hacc.work hinv hin (step_passWork hstep hm), fun hp => ?_⟩
    rcases step_endOfPass hstep hm with he | hk
    · exact ⟨he.lastRecords, he.lastAccepted⟩
    · exact absurd hp (hk.phase hin)

/-- At the end of a pass, its account in terms of the registers that the host reads. -/
theorem passAccount_of_respond {s u t : State} {i : Instr} (hi : s.Inv) (hp : s.phase = .idle)
    (hr : runsPass i = true) (hu : exec i s = .next u) (h : PassReaches u t) (ht : t.phase = .respond) :
    t.lastRecords = t.nrec ∧ t.lastAccepted = t.nacc ∧ ∃ evs, PassAccount s t evs := by
  rw [exec_of_runsPass hr] at hu
  injection hu with hu
  subst hu
  obtain ⟨-, hacc, hreg⟩ := h.account (hi.acceptPass hp hr)
  exact ⟨(hreg ht).1, (hreg ht).2, hacc⟩

/-- Settles O52: the account's clauses for the records that were not read and for those that were rejected. -/
theorem passLeavesUnacceptedSlotsUnchanged : Obligations.PassLeavesUnacceptedSlotsUnchanged := by
  unfold Obligations.PassLeavesUnacceptedSlotsUnchanged
  intro s u t i hi hp hr hu h ht
  obtain ⟨hn, -, evs, hacc⟩ := passAccount_of_respond hi hp hr hu h ht
  rw [hn]
  exact ⟨evs, hacc.events, hacc.unread, hacc.rejected⟩

/-- Settles O53: the account's clauses for the count and for the records that were accepted. -/
theorem otherSlotsBelowLastRecordsArePresentAfterAPass :
    Obligations.OtherSlotsBelowLastRecordsArePresentAfterAPass := by
  unfold Obligations.OtherSlotsBelowLastRecordsArePresentAfterAPass
  intro s u t i hi hp hr hu h ht
  obtain ⟨hn, ha, evs, hacc⟩ := passAccount_of_respond hi hp hr hu h ht
  rw [hn, ha]
  exact ⟨evs, hacc.events, hacc.count, hacc.accepted⟩

end Sys2Proof.Machine

/-! PROOFS. Runs of the block on an oracle's stream of responses, with no move of the environment in between: what one
response does in each phase (R112, R118, R131, R133), the delivery of a response (R151), and the holds (R67). -/

namespace Sys2Proof.Machine

/-! ### Runs -/

theorem runSteps_succ {s t : State} (h : step s = .next t) (n : Nat) :
    runSteps (n + 1) s = runSteps n t := by
  simp only [runSteps, h]

theorem runSteps_add {m n : Nat} {s t : State} (h : runSteps m s = .next t) :
    runSteps (m + n) s = runSteps n t := by
  induction m generalizing s with
  | zero =>
    rw [Nat.zero_add]
    injection h with h
    rw [h]
  | succ m ih =>
    rw [Nat.succ_add]
    simp only [runSteps] at h ⊢
    cases hs : step s <;> simp only [hs, reduceCtorEq] at h ⊢
    exact ih h

/-- Some number of steps leads from `s` to `t`. -/
def Reaches (s t : State) : Prop := ∃ n, runSteps n s = .next t

theorem Reaches.refl (s : State) : Reaches s s := ⟨0, rfl⟩

theorem Reaches.of_step {s t : State} (h : step s = .next t) : Reaches s t := ⟨1, runSteps_succ h 0⟩

theorem Reaches.trans {s t u : State} (h : Reaches s t) (h' : Reaches t u) : Reaches s u := by
  obtain ⟨m, hm⟩ := h
  obtain ⟨n, hn⟩ := h'
  exact ⟨m + n, (runSteps_add hm).trans hn⟩

/-- A run keeps the invariant. -/
theorem Reaches.inv {s t : State} (h : Reaches s t) (hi : s.Inv) : t.Inv := by
  obtain ⟨n, hn⟩ := h
  induction n generalizing s with
  | zero => injection hn with hn; exact hn ▸ hi
  | succ n ih =>
    cases hs : step s with
    | next u => exact ih (hi.step hs) ((runSteps_succ hs n).symm.trans hn)
    | fault f => simp [runSteps, hs] at hn
    | refused r => simp [runSteps, hs] at hn

/-! ### The block alone with its stream -/

theorem State.dropMove_of_nil {s : State} (h : s.schedule = []) : s.dropMove = s := by
  apply State.ext <;> simp [h]

theorem State.blockTurn_of_nil {s : State} (hc : s.config.legal = true) (h : s.schedule = []) : s.blockTurn :=
  ⟨hc, by simp [nextMove, h]⟩

/-- It is the block's turn for good, and the oracle's responses are `ts` (R4). -/
structure State.OnStream (s : State) (ts : List Token) : Prop where
  config : s.config.legal = true
  schedule : s.schedule = []
  abandoned : s.abandoned = none
  transport : s.transport = .oracle ts

theorem State.OnStream.blockTurn {s : State} {ts : List Token} (h : s.OnStream ts) : s.blockTurn :=
  State.blockTurn_of_nil h.config h.schedule

theorem State.OnStream.readWord {s : State} {v : U16} {ts : List Token} (h : s.OnStream (.word v :: ts)) :
    s.transport.readWord = .answered (.data v) (.oracle ts) := by
  rw [h.transport]; rfl

theorem State.OnStream.readWord_nonData {s : State} {c : NonData} {ts : List Token}
    (h : s.OnStream (.nonData c :: ts)) :
    s.transport.readWord = .answered (.nonData c) (.oracle ts) := by
  rw [h.transport]; rfl

/-- What a step of a running pass leaves as it is, but the stream (R150, R151). -/
structure State.PassFrame (s t : State) : Prop where
  config : t.config = s.config
  cmdOp : t.cmdOp = s.cmdOp
  cmdArg : t.cmdArg = s.cmdArg
  commands : t.commands = s.commands
  delivered : t.delivered = s.delivered
  hostReady : t.hostReady = s.hostReady
  schedule : t.schedule = s.schedule
  abandoned : t.abandoned = s.abandoned

theorem State.PassFrame.refl (s : State) : s.PassFrame s := ⟨rfl, rfl, rfl, rfl, rfl, rfl, rfl, rfl⟩

theorem State.PassFrame.trans {s t u : State} (h : s.PassFrame t) (h' : t.PassFrame u) : s.PassFrame u :=
  ⟨h'.config.trans h.config, h'.cmdOp.trans h.cmdOp, h'.cmdArg.trans h.cmdArg, h'.commands.trans h.commands,
    h'.delivered.trans h.delivered, h'.hostReady.trans h.hostReady, h'.schedule.trans h.schedule,
    h'.abandoned.trans h.abandoned⟩

theorem State.PassFrame.onStream {s t : State} {ts ts' : List Token} (h : s.PassFrame t) (hs : s.OnStream ts)
    (ht : t.transport = .oracle ts') : t.OnStream ts' :=
  ⟨h.config ▸ hs.config, h.schedule.trans hs.schedule, h.abandoned.trans hs.abandoned, ht⟩

theorem Effect.passFrame {s t : State} (h : Effect s t) (hin : s.inPass = true) : s.PassFrame t := by
  cases h with
  | acceptPass _ _ _ hp | acceptReg _ _ _ _ hp | acceptBad _ _ _ hp | deliver hp =>
    simp [State.inPass_eq, hp] at hin
  | accept | reject => constructor <;> simp [State.lastField]
  | _ => constructor <;> simp

theorem step_passFrame {s t : State} {ts : List Token} (hs : s.OnStream ts) (hin : s.inPass = true)
    (h : step s = .next t) : s.PassFrame t := by
  obtain ⟨-, ⟨-, he⟩ | ⟨hm, -⟩⟩ := step_effect h
  · rw [State.dropMove_of_nil hs.schedule] at he
    exact he.passFrame hin
  · exact absurd hs.blockTurn.2 hm

/-! ### One response (R112, R118, R131, R133) -/

section
variable {s : State} {ts : List Token}

theorem step_scan_limit (hs : s.OnStream ts) (hp : s.phase = .scanWord)
    (hl : s.scnt.toNat = s.config.scanLimit) : step s = .next (s.noFrame .noFrameScanLimit) := by
  rw [step_scanWord hs.blockTurn hp, State.dropMove_of_nil hs.schedule, scanWordStep_of_limit hl]

theorem step_scan_word {v : U16} (hs : s.OnStream (.word v :: ts)) (hp : s.phase = .scanWord)
    (hl : s.scnt.toNat ≠ s.config.scanLimit) : step s = exec (decodeScan v) (s.gotResponse (.oracle ts)) := by
  rw [step_scanWord hs.blockTurn hp, State.dropMove_of_nil hs.schedule,
    scanWordStep_of_answered hl hs.abandoned hs.readWord]
  rfl

theorem step_scan_nonData {c : NonData} (hs : s.OnStream (.nonData c :: ts)) (hp : s.phase = .scanWord)
    (hl : s.scnt.toNat ≠ s.config.scanLimit) :
    step s = .next ((s.gotResponse (.oracle ts)).noFrame (.noFrame c)) := by
  rw [step_scanWord hs.blockTurn hp, State.dropMove_of_nil hs.schedule,
    scanWordStep_of_answered hl hs.abandoned hs.readWord_nonData]
  rfl

theorem step_scan_byte {b : U8} (hs : s.OnStream (.byte b :: ts)) (hp : s.phase = .scanByte) :
    step s = .next ((s.gotResponse (.oracle ts)).realign .byte true).shift := by
  have hr : s.transport.readByte = .answered (.data b) (.oracle ts) := by rw [hs.transport]; rfl
  rw [step_scanByte hs.blockTurn hp, State.dropMove_of_nil hs.schedule, scanByteStep_of_answered hs.abandoned hr]
  rfl

theorem step_scan_noByte {c : NonData} (hs : s.OnStream (.nonData c :: ts)) (hp : s.phase = .scanByte) :
    step s = .next ((s.gotResponse (.oracle ts)).noFrame (.noFrame c)) := by
  have hr : s.transport.readByte = .answered (.nonData c) (.oracle ts) := by rw [hs.transport]; rfl
  rw [step_scanByte hs.blockTurn hp, State.dropMove_of_nil hs.schedule, scanByteStep_of_answered hs.abandoned hr]
  rfl

theorem step_sync_word {v : U16} (hs : s.OnStream (.word v :: ts)) (hp : s.phase = .recType) :
    step s = exec (decodeRecord v) (s.gotResponse (.oracle ts)) := by
  rw [step_recType hs.blockTurn hp, State.dropMove_of_nil hs.schedule,
    recTypeStep_of_answered hs.abandoned hs.readWord]
  rfl

theorem step_body_word {v : U16} (hs : s.OnStream (.word v :: ts)) (hp : s.phase = .recField) :
    step s = (s.gotResponse (.oracle ts)).takeField v := by
  rw [step_recField hs.blockTurn hp, State.dropMove_of_nil hs.schedule,
    recFieldStep_of_answered hs.abandoned hs.readWord]
  rfl

theorem step_record_noData {c : NonData} (hs : s.OnStream (.nonData c :: ts)) (hi : s.inRecord = true) :
    step s = .next ((s.gotResponse (.oracle ts)).abortPass (.abort c)) := by
  rw [step_record_nonData hs.blockTurn hs.abandoned hi hs.readWord_nonData,
    State.dropMove_of_nil hs.schedule]

end

/-! ### Delivery and holds (R151, R67) -/

theorem step_deliver {s : State} (hc : s.config.legal = true) (hsch : s.schedule = []) (hp : s.phase = .respond)
    (hr : s.hostReady = true) : step s = .next s.deliver := by
  rw [step_block hc (State.blockTurn_of_nil hc hsch).2, State.dropMove_of_nil hsch, blockStep_respond hp,
    respondStep, if_pos hr]

/-- One step a word; the last one leaves the block idle. -/
theorem runSteps_deliver {s : State} {words : List U16} (hc : s.config.legal = true) (hsch : s.schedule = [])
    (hp : s.phase = .respond) (hr : s.hostReady = true) (hw : s.response = words) (hne : words ≠ []) :
    runSteps words.length s =
      .next { s with response := [], delivered := s.delivered ++ words, phase := .idle } := by
  induction words generalizing s with
  | nil => exact absurd rfl hne
  | cons w ws ih =>
    rw [List.length_cons, runSteps_succ (step_deliver hc hsch hp hr)]
    cases ws with
    | nil => simp [State.deliver, hw, runSteps]
    | cons w' ws' =>
      have hd : s.deliver = { s with response := w' :: ws', delivered := s.delivered ++ [w] } := by
        simp [State.deliver, hw]
      rw [hd]
      refine (ih (s := { s with response := w' :: ws', delivered := s.delivered ++ [w] })
        hc hsch hp hr rfl (by simp)).trans ?_
      simp

/-- Settles O31: by induction on the words still in flight; a host that takes none leaves the step at `notTaken`. -/
theorem responseIsDeliveredInOrder : Obligations.ResponseIsDeliveredInOrder := by
  unfold Obligations.ResponseIsDeliveredInOrder
  refine ⟨fun s hc hsch hp hne hr => runSteps_deliver hc hsch hp hr rfl hne, fun s ht hp hr => ?_⟩
  rw [step_block ht.1 ht.2, blockStep_respond (s := s.dropMove) hp, respondStep, if_neg (by simp [hr])]
  rfl

/-- A request without a response leaves the block where it is, the request outstanding (R67). -/
theorem State.request_waiting {α : Type} {s : State} (w : Width) (go : Response α → State → Result State)
    (ha : s.abandoned = none) : s.request w .waiting go = .next { s with outstanding := some w } := by
  simp only [State.request, ha]

/-- The phase's request is of width `w` and has no response. -/
abbrev State.Waits (s : State) (w : Width) : Prop :=
  (w = .word ∧ s.phase = .scanWord ∧ s.scnt.toNat ≠ s.config.scanLimit ∧ s.transport.readWord = .waiting) ∨
    (w = .word ∧ s.inRecord = true ∧ s.transport.readWord = .waiting) ∨
    (w = .byte ∧ s.phase = .scanByte ∧ s.transport.readByte = .waiting)

theorem step_of_waits {s : State} {w : Width} (hc : s.config.legal = true) (hsch : s.schedule = [])
    (ha : s.abandoned = none) (h : s.Waits w) : step s = .next { s with outstanding := some w } := by
  have ht := State.blockTurn_of_nil hc hsch
  have hd := State.dropMove_of_nil hsch
  rcases h with ⟨rfl, hp, hl, hr⟩ | ⟨rfl, hin, hr⟩ | ⟨rfl, hp, hr⟩
  · rw [step_scanWord ht hp, hd, scanWordStep, if_neg hl, hr, State.request_waiting _ _ ha]
  · rcases s.inRecord_iff.mp hin with hp | hp
    · rw [step_recType ht hp, hd, recTypeStep, hr, State.request_waiting _ _ ha]
    · rw [step_recField ht hp, hd, recFieldStep, hr, State.request_waiting _ _ ha]
  · rw [step_scanByte ht hp, hd, scanByteStep, hr, State.request_waiting _ _ ha]

/-- Settles O32: by induction on the number of steps, each from a state that waits in the same way. -/
theorem unansweredRequestHoldsTheBlock : Obligations.UnansweredRequestHoldsTheBlock := by
  unfold Obligations.UnansweredRequestHoldsTheBlock
  intro s w hc hsch ha h n
  induction n generalizing s with
  | zero => exact runSteps_succ (step_of_waits hc hsch ha h) 0
  | succ n ih =>
    rw [runSteps_succ (step_of_waits hc hsch ha h)]
    exact ih { s with outstanding := some w } hc hsch ha h

end Sys2Proof.Machine

/-! PROOFS. The decoding of one record from its body words (41_record_decoder.md R130, R133 to R138). -/

namespace Sys2Proof.Machine

/-! ### The body words -/

/-- A body word that is not the last (R133). -/
theorem step_field {s : State} {v : U16} {ts : List Token} {k k' : FieldNo} (hs : s.OnStream (.word v :: ts))
    (hp : s.phase = .recField) (hk : s.k = k) (hn : k.next s.btype = some k') :
    step s = .next { (s.gotResponse (.oracle ts)).setField k v with k := k' } := by
  subst hk
  rw [step_body_word hs hp, State.takeField]
  simp only [State.gotResponse_k, State.gotResponse_btype, hn]

/-- The stream after a body word. -/
theorem State.OnStream.field {s : State} {v : U16} {ts : List Token} (hs : s.OnStream (.word v :: ts))
    (k k' : FieldNo) :
    ({ (s.gotResponse (.oracle ts)).setField k v with k := k' } : State).OnStream ts :=
  ⟨by simpa using hs.config, by simpa using hs.schedule, by simpa using hs.abandoned, by simp⟩

/-- The record at index I is accepted or rejected, and the pass goes on or ends (R135, R155). -/
def State.count (r : State) : State := if r.sum = r.fCk then r.commit else r.reject

theorem State.endRecord_of_lt {s : State} (hi : s.i.toNat < s.config.nSlots) :
    s.endRecord = .next s.closeFields.count.nextRecord := by
  simp only [State.endRecord, State.count, State.closeFields_i, State.closeFields_config, if_pos hi]
  split <;> rfl

/-- The last body word (R133, R135). -/
theorem step_lastField {s : State} {v : U16} {ts : List Token} {k : FieldNo} (hs : s.OnStream (.word v :: ts))
    (hp : s.phase = .recField) (hk : s.k = k) (hn : k.next s.btype = none) (hi : s.i.toNat < s.config.nSlots) :
    step s = .next ((s.gotResponse (.oracle ts)).setField k v).closeFields.count.nextRecord := by
  subst hk
  rw [step_body_word hs hp, State.takeField]
  simp only [State.gotResponse_k, State.gotResponse_btype, hn]
  exact State.endRecord_of_lt (by simpa using hi)

/-- `s` with the words of a record in the field registers and the stream behind them. -/
def State.withBody (s : State) (rest : List Token) (k : FieldNo) (ck : U16) (d : Detection) : State :=
  { s with
    transport := .oracle rest, outstanding := none, k := k, fCk := ck, fSig := d.signatureNumber
    fX := d.centerX, fY := d.centerY, fW := d.width, fH := d.height, fAng := d.angle }

theorem State.OnStream.withBody {s : State} {ts : List Token} (hs : s.OnStream ts) (rest : List Token)
    (k : FieldNo) (ck : U16) (d : Detection) : (s.withBody rest k ck d).OnStream rest :=
  ⟨hs.config, hs.schedule, hs.abandoned, rfl⟩

/-- The first five words are those of both record types (R133). -/
theorem runSteps_five {s : State} {ck sig x y w : U16} {rest : List Token}
    (hs : s.OnStream (.word ck :: .word sig :: .word x :: .word y :: .word w :: rest)) (hp : s.phase = .recField)
    (hk : s.k = .checksum) (n : Nat) :
    runSteps (5 + n) s =
      runSteps n (s.withBody rest .height ck ⟨s.btype, sig, x, y, w, s.fH, s.fAng⟩) := by
  refine runSteps_add ?_
  have h1 := hs.withBody (.word sig :: .word x :: .word y :: .word w :: rest) .signatureNumber ck
    ⟨s.btype, s.fSig, s.fX, s.fY, s.fW, s.fH, s.fAng⟩
  have h2 := hs.withBody (.word x :: .word y :: .word w :: rest) .centerX ck
    ⟨s.btype, sig, s.fX, s.fY, s.fW, s.fH, s.fAng⟩
  have h3 := hs.withBody (.word y :: .word w :: rest) .centerY ck
    ⟨s.btype, sig, x, s.fY, s.fW, s.fH, s.fAng⟩
  have h4 := hs.withBody (.word w :: rest) .width ck ⟨s.btype, sig, x, y, s.fW, s.fH, s.fAng⟩
  calc runSteps 5 s = runSteps 4 _ := runSteps_succ (step_field hs hp hk rfl) 4
    _ = runSteps 3 _ := runSteps_succ (step_field h1 hp rfl rfl) 3
    _ = runSteps 2 _ := runSteps_succ (step_field h2 hp rfl rfl) 2
    _ = runSteps 1 _ := runSteps_succ (step_field h3 hp rfl rfl) 1
    _ = runSteps 0 _ := runSteps_succ (step_field h4 hp rfl rfl) 0

/-- A Normal record takes six words; its angle is cleared (R133). -/
theorem runSteps_normalBody {s : State} {ck sig x y w h : U16} {rest : List Token}
    (hs : s.OnStream (.word ck :: .word sig :: .word x :: .word y :: .word w :: .word h :: rest))
    (hp : s.phase = .recField) (hk : s.k = .checksum) (hb : s.btype = .normal)
    (hi : s.i.toNat < s.config.nSlots) :
    runSteps 6 s =
      .next (s.withBody rest .height ck ⟨.normal, sig, x, y, w, h, 0x0000#16⟩).count.nextRecord := by
  have h5 := hs.withBody (.word h :: rest) .height ck ⟨s.btype, sig, x, y, w, s.fH, s.fAng⟩
  refine (runSteps_five hs hp hk 1).trans ?_
  refine (runSteps_succ (step_lastField h5 hp rfl (by simp [State.withBody, hb, FieldNo.next]) hi) 0).trans ?_
  simp [State.closeFields, State.setField, State.gotResponse, State.withBody, hb, runSteps]

/-- A ColorCode record takes seven words, the last one its angle (R133). -/
theorem runSteps_colorCodeBody {s : State} {ck sig x y w h ang : U16} {rest : List Token}
    (hs : s.OnStream
      (.word ck :: .word sig :: .word x :: .word y :: .word w :: .word h :: .word ang :: rest))
    (hp : s.phase = .recField) (hk : s.k = .checksum) (hb : s.btype = .colorCode)
    (hi : s.i.toNat < s.config.nSlots) :
    runSteps 7 s =
      .next (s.withBody rest .angle ck ⟨.colorCode, sig, x, y, w, h, ang⟩).count.nextRecord := by
  have h5 := hs.withBody (.word h :: .word ang :: rest) .height ck ⟨s.btype, sig, x, y, w, s.fH, s.fAng⟩
  refine (runSteps_five hs hp hk 2).trans ?_
  refine (runSteps_succ (step_field h5 hp rfl (k' := .angle)
    (by simp [State.withBody, hb, FieldNo.next])) 1).trans ?_
  refine (runSteps_succ (step_lastField (h5.field .height .angle) hp rfl rfl hi) 0).trans ?_
  simp [State.closeFields, State.setField, State.gotResponse, State.withBody, hb, runSteps]

/-! ### The outcome of a record (R135, R137, R138) -/

/-- The record's SUM is its Detection's, and F_CK its checksum word (R134). -/
theorem State.count_withBody {s : State} {rest : List Token} {k : FieldNo} {ck : U16} {d : Detection}
    (hd : s.btype = d.cc) :
    (s.withBody rest k ck d).count =
      if d.sumMod = ck.toNat then
        { s.withBody rest k ck d with
          slots := s.slots.set s.i.toNat (.present d), nrec := s.nrec + 1#16, nacc := s.nacc + 1#16 }
      else
        { s.withBody rest k ck d with
          nrec := s.nrec + 1#16, cksumFaultCount := s.cksumFaultCount + 1#16
          lastFaultSig := d.signatureNumber
          events := s.events ++ [.checksumFault s.i d.signatureNumber] } := by
  have hdet : (s.withBody rest k ck d).detection = d := by simp [State.withBody, State.detection, hd]
  have hsum : (s.withBody rest k ck d).sum = ck ↔ d.sumMod = ck.toNat := by
    rw [← BitVec.toNat_inj, State.sum_toNat, hdet]
  have hck : (s.withBody rest k ck d).fCk = ck := rfl
  rw [State.count, hck]
  by_cases h : d.sumMod = ck.toNat
  · rw [if_pos h, if_pos (hsum.mpr h), State.commit, hdet]
    rfl
  · rw [if_neg h, if_neg (mt hsum.mp h)]
    rfl

/-- What is done with a record writes its slot or its fault, and moves no index (R137, R138). -/
theorem State.recordCounted_count_withBody {s : State} {rest : List Token} {k : FieldNo} {ck : U16} {d : Detection}
    (hd : s.btype = d.cc) : s.RecordCounted (s.withBody rest k ck d).count := by
  rw [State.count_withBody hd]
  split <;> constructor <;> simp [State.withBody]

theorem recordOutcome_nextRecord {s : State} {rest : List Token} {k : FieldNo} {ck : U16} {d : Detection}
    (hd : s.btype = d.cc) :
    RecordOutcome s (s.withBody rest k ck d).count.nextRecord ck d rest := by
  have hc : s.RecordCounted (s.withBody rest k ck d).count := State.recordCounted_count_withBody hd
  have hcount := State.count_withBody (s := s) (rest := rest) (k := k) (ck := ck) hd
  refine ⟨?_, by simpa using hc.nrec, fun h => ?_, fun h => ?_, fun h => ?_, fun h => ?_⟩
  · rw [State.nextRecord_transport, hcount]; split <;> rfl
  · rw [hcount, if_pos h]; simp [State.withBody]
  · rw [hcount, if_neg h]; simp [State.withBody]
  · rw [State.nextRecord, hc.i, hc.config, if_pos h]
    exact ⟨rfl, rfl, hc.status⟩
  · rw [State.nextRecord, hc.i, hc.config, if_neg (by omega)]
    refine ⟨rfl, ?_, hc.nrec, rfl, hc.scnt⟩
    rw [hcount]; split <;> rfl

/-- Settles O21: six words fill the field registers, and SUM against F_CK decides what is done with them. -/
theorem normalRecordIsDecodedFromSixWords : Obligations.NormalRecordIsDecodedFromSixWords := by
  unfold Obligations.NormalRecordIsDecodedFromSixWords
  intro s ck sig x y w h rest hc hsch ha hp hk hb hi ht
  exact ⟨_, runSteps_normalBody ⟨hc, hsch, ha, ht⟩ hp hk hb hi, recordOutcome_nextRecord hb⟩

/-- Settles O22: as a Normal record, with the angle read. -/
theorem colorCodeRecordIsDecodedFromSevenWords : Obligations.ColorCodeRecordIsDecodedFromSevenWords := by
  unfold Obligations.ColorCodeRecordIsDecodedFromSevenWords
  intro s ck sig x y w h ang rest hc hsch ha hp hk hb hi ht
  exact ⟨_, runSteps_colorCodeBody ⟨hc, hsch, ha, ht⟩ hp hk hb hi, recordOutcome_nextRecord hb⟩

/-! ### One changed word (R139) -/

/-- `F[K]` (R130). -/
def State.fieldReg (s : State) (k : FieldNo) : U16 :=
  match k with
  | .checksum => s.fCk
  | .signatureNumber => s.fSig
  | .centerX => s.fX
  | .centerY => s.fY
  | .width => s.fW
  | .height => s.fH
  | .angle => s.fAng

theorem State.setField_fieldReg (s : State) (k : FieldNo) : s.setField k (s.fieldReg k) = s := by
  cases k <;> rfl

/-- Settles O24: the new word is added in the place of the old one, so SUM and F_CK cannot both follow. -/
theorem oneChangedWordIsRejected : Obligations.OneChangedWordIsRejected := by
  unfold Obligations.OneChangedWordIsRejected
  intro s k v hs hne h
  have hold : v = s.fieldReg k := by
    cases k with
    | checksum => exact (hs.symm.trans h).symm
    | _ => simpa [State.sum, State.setField, State.fieldReg] using h.trans hs.symm
  exact hne (hold ▸ s.setField_fieldReg k)

end Sys2Proof.Machine

/-! PROOFS. The pass of a command against the pseudocode of R110, R130 and R155: the scan, the records one after the
other, the response. -/

namespace Sys2Proof.Machine

/-! ### A scan word (R110) -/

/-- What a scan word does, in the order of the pseudocode (R110). -/
def State.scanned (s : State) (v : U16) : State :=
  if v = 0x0000#16 ∧ s.prev = 0x0000#16 then (s.takeScanWord v).noFrame .noFrameIdle
  else if s.prev = 0xAA55#16 ∧ v = 0xAA55#16 then (s.takeScanWord v).synced .normal
  else if s.prev = 0xAA55#16 ∧ v = 0xAA56#16 then (s.takeScanWord v).synced .colorCode
  else if v = 0x55AA#16 then
    ({ s.takeScanWord v with oosCount := s.oosCount + 1#16, phase := .scanByte } : State).emit .outOfSync
  else (s.takeScanWord v).shift

/-- The class of a scan word and its PREV condition are the chain of the pseudocode (R80). -/
theorem exec_decodeScan (s : State) (v : U16) : exec (decodeScan v) s = .next (s.scanned v) := by
  rcases decodeScan_cases v with ⟨rfl, hd⟩ | ⟨rfl, hd⟩ | ⟨rfl, hd⟩ | ⟨rfl, hd⟩ | ⟨h0, h1, h2, h3, hd⟩ <;>
    rw [hd, exec_next]
  · simp [State.scanned]
  · simp [State.scanned]
  · simp [State.scanned]
  · simp [State.scanned]
  · simp [State.scanned, h0, h1, h2, h3]

/-- Settles O14: `scanned` is that chain. -/
theorem scanWordActsAsInThePseudocode : Obligations.ScanWordActsAsInThePseudocode := by
  unfold Obligations.ScanWordActsAsInThePseudocode
  exact fun s v => exec_decodeScan s v

/-! ### The end of a pass -/

/-- `t` is the end of the pass that is running in `s`: the block is about to respond with `code`, `v` is what the host
sees, and `rest` the stream that is left (R155, R156). -/
structure State.EndsIn (s t : State) (e : PassEnd) : Prop where
  reaches : Reaches s t
  frame : s.PassFrame t
  phase : t.phase = .respond
  visible : t.visible = e.visible
  transport : t.transport = .oracle e.rest
  response : t.response = t.passResponse e.code

/-- The pass that is running in `s` ends as `e` says. -/
def State.Ends (s : State) (e : PassEnd) : Prop := ∃ t, s.EndsIn t e

theorem State.Ends.of_reaches {s t : State} {e : PassEnd} (h : t.Ends e) (hr : Reaches s t)
    (hf : s.PassFrame t) : s.Ends e := by
  obtain ⟨u, hu⟩ := h
  exact ⟨u, hr.trans hu.reaches, hf.trans hu.frame, hu.phase, hu.visible, hu.transport, hu.response⟩

theorem State.Ends.of_step {s t : State} {e : PassEnd} {ts : List Token} (h : t.Ends e) (hs : s.OnStream ts)
    (hin : s.inPass = true) (hstep : Machine.step s = .next t) : s.Ends e :=
  h.of_reaches (.of_step hstep) (step_passFrame hs hin hstep)

/-- `finish` in the machine is `finish` of the pseudocode (R156). -/
theorem State.ends_finish {s : State} {code : ResultCode} {synced : Bool} {cc : BlockType} {v : Visible}
    {nrec nacc : Nat} {rest : List Token} (hv : s.visible = v) (hn : s.nrec = BitVec.ofNat 16 nrec)
    (ha : s.nacc = BitVec.ofNat 16 nacc) (ht : s.transport = .oracle rest) :
    (s.finish code synced cc).Ends ⟨code, v.finish code synced cc nrec nacc s.scnt, rest⟩ := by
  subst hv
  refine ⟨_, .refl _, .refl _, rfl, ?_, ht, rfl⟩
  simp [State.visible, Visible.finish, hn, ha]

/-! ### The records (R130) -/

/-- What the records of a pass have done so far (R155). -/
structure State.Did (s : State) (p : PassSoFar) : Prop where
  visible : s.visible = p.visible
  nrec : s.nrec = BitVec.ofNat 16 p.nrec
  nacc : s.nacc = BitVec.ofNat 16 p.nacc

/-- The end of the pass after its records: the frame start's type is the pass's (R155). -/
def State.recordsEnd (s : State) (r : RecordsEnd) : PassEnd :=
  ⟨r.code, r.done.visible.finish r.code true s.tScan r.done.nrec r.done.nacc s.scnt, r.rest⟩

theorem State.recordsEnd_congr {s t : State} {r : RecordsEnd} (ht : t.tScan = s.tScan) (hn : t.scnt = s.scnt) :
    t.recordsEnd r = s.recordsEnd r := by
  rw [State.recordsEnd, State.recordsEnd, ht, hn]

theorem State.ends_abort {s : State} {c : NonData} {p : PassSoFar} {ts : List Token}
    (hs : s.OnStream (.nonData c :: ts)) (hin : s.inRecord = true) (hp : s.Did p) :
    s.Ends (s.recordsEnd ⟨.abort c, p, ts⟩) := by
  refine State.Ends.of_step ?_ hs (s.inPass_iff.mpr (.inr hin)) (step_record_noData hs hin)
  exact State.ends_finish (s := s.gotResponse (.oracle ts)) hp.visible hp.nrec hp.nacc rfl

/-- The body word behind one that is not the last (R133). -/
theorem FieldNo.next_of_lt {k : FieldNo} {b : BlockType} (h : k.number + 1 < bodyWords b) :
    ∃ k', k.next b = some k' ∧ k'.number = k.number + 1 := by
  cases k <;> cases b <;> simp [FieldNo.number, bodyWords] at h <;> exact ⟨_, rfl, rfl⟩

/-- A record whose words run out ends the pass, wherever in its body (R136). -/
theorem ends_of_readWords_stopped {s : State} {n : Nat} {ts rest : List Token} {c : NonData} {p : PassSoFar}
    (hs : s.OnStream ts) (hp : s.phase = .recField) (hd : s.Did p)
    (hn : s.k.number + n ≤ bodyWords s.btype) (hr : readWords n ts = some (.stopped c rest)) :
    s.Ends (s.recordsEnd ⟨.abort c, p, rest⟩) := by
  have hin : s.inRecord = true := s.inRecord_iff.mpr (.inr hp)
  induction n, ts using readWords.induct generalizing s with
  | case1 ts => simp [readWords] at hr
  | case2 n v ts vs rest' hrest ih => simp [readWords, hrest] at hr
  | case3 n v ts hno ih =>
    simp only [readWords] at hr
    have hpos : 0 < n := Nat.pos_of_ne_zero fun h => by simp [h, readWords] at hr
    obtain ⟨k', hk', hnum⟩ := FieldNo.next_of_lt (k := s.k) (b := s.btype) (by omega)
    have hstep := step_field hs hp rfl hk'
    have hd' : ({ (s.gotResponse (.oracle ts)).setField s.k v with k := k' } : State).Did p :=
      ⟨by simpa [State.visible] using hd.visible, by simpa using hd.nrec, by simpa using hd.nacc⟩
    have hend := ih (hs.field s.k k') (by simpa using hp) hd' (by simp [hnum]; omega) hr
      (by simp [State.inRecord, hp])
    rw [State.recordsEnd_congr (s := s) (by simp) (by simp)] at hend
    exact hend.of_step hs (s.inPass_iff.mpr (.inr hin)) hstep
  | case4 n c' ts =>
    simp only [readWords, Option.some.injEq, WordsRead.stopped.injEq] at hr
    obtain ⟨rfl, rfl⟩ := hr
    exact State.ends_abort hs hin hd
  | case5 n b ts => simp [readWords] at hr
  | case6 n => simp [readWords] at hr

/-- The words that were read stand at the front of the stream. -/
theorem readWords_complete {n : Nat} {ts rest : List Token} {vs : List U16}
    (h : readWords n ts = some (.complete vs rest)) : ts = vs.map .word ++ rest := by
  induction n, ts using readWords.induct generalizing vs with
  | case1 ts =>
    simp only [readWords, Option.some.injEq, WordsRead.complete.injEq] at h
    obtain ⟨rfl, rfl⟩ := h
    rfl
  | case2 n v ts vs' rest' hrest ih =>
    simp only [readWords, hrest, Option.some.injEq, WordsRead.complete.injEq] at h
    obtain ⟨rfl, rfl⟩ := h
    rw [ih hrest]
    rfl
  | case3 n v ts hno ih =>
    simp only [readWords] at h
    exact absurd h (hno _ _)
  | case4 n c' ts => simp [readWords] at h
  | case5 n b ts => simp [readWords] at h
  | case6 n => simp [readWords] at h

/-- The body of a record, read and counted in its place of the pass (R133 to R138). -/
theorem State.OnStream.body {s : State} {b : BlockType} {vs : List U16} {rest : List Token} {ck : U16} {d : Detection}
    (hs : s.OnStream (vs.map .word ++ rest)) (hp : s.phase = .recField) (hk : s.k = .checksum)
    (hb : s.btype = b) (hi : s.i.toNat < s.config.nSlots) (hbody : bodyOf b vs = some (ck, d)) :
    d.cc = b ∧ ∃ k, Reaches s (s.withBody rest k ck d).count.nextRecord := by
  unfold bodyOf at hbody
  split at hbody
  · injection hbody with hbody
    injection hbody with h1 h2
    subst h1 h2
    exact ⟨rfl, .height, 6, runSteps_normalBody hs hp hk hb hi⟩
  · injection hbody with hbody
    injection hbody with h1 h2
    subst h1 h2
    exact ⟨rfl, .angle, 7, runSteps_colorCodeBody hs hp hk hb hi⟩
  · cases hbody

/-- What is done with a record in the machine is what the pseudocode does with it (R137, R138). -/
theorem State.Did.record {s : State} {p : PassSoFar} {rest : List Token} {k : FieldNo} {ck : U16} {d : Detection}
    (hd : s.Did p) (hb : s.btype = d.cc) :
    (s.withBody rest k ck d).count.Did (p.record s.i.toNat ck d) := by
  obtain ⟨hv, hn, ha⟩ := hd
  rw [State.count_withBody hb, PassSoFar.record]
  split
  · refine ⟨?_, ?_, ?_⟩
    · simp [← hv, State.visible, State.withBody]
    · simp [hn, BitVec.ofNat_add]
    · simp [ha, BitVec.ofNat_add]
  · refine ⟨?_, ?_, ?_⟩
    · simp [← hv, State.visible, State.withBody]
    · simp [hn, BitVec.ofNat_add]
    · simp [ha, State.withBody]

/-- Reading and counting a record leaves the frame of its pass. -/
theorem State.passFrame_nextRecord_count {s : State} {rest : List Token} {k : FieldNo} {ck : U16} {d : Detection}
    (hb : s.btype = d.cc) : s.PassFrame (s.withBody rest k ck d).count.nextRecord := by
  rw [State.count_withBody hb]
  split <;> constructor <;> simp [State.withBody]

/-- One record's body, whatever the pass does behind it (R155). -/
theorem ends_of_recordBody {s : State} {b : BlockType} {ts : List Token} {p : PassSoFar} {r : RecordsEnd}
    {go : PassSoFar → List Token → Option RecordsEnd} (hs : s.OnStream ts) (hp : s.phase = .recField)
    (hk : s.k = .checksum) (hb : s.btype = b) (hi : s.i.toNat < s.config.nSlots) (hd : s.Did p)
    (hr : recordBody p s.i.toNat b ts go = some r)
    (hgo : ∀ (c : State) (p' : PassSoFar) (rest : List Token), c.OnStream rest → c.Did p' →
      c.i = s.i → c.config = s.config → go p' rest = some r → c.nextRecord.Ends (c.recordsEnd r)) :
    s.Ends (s.recordsEnd r) := by
  unfold recordBody at hr
  split at hr
  · next vs rest hread =>
    split at hr
    · next ck d hbody =>
      subst hb
      obtain ⟨hcc, k, hreach⟩ := State.OnStream.body (readWords_complete hread ▸ hs) hp hk rfl hi hbody
      have hcounted := State.recordCounted_count_withBody (s := s) (rest := rest) (k := k) (ck := ck) hcc.symm
      have hcount := State.count_withBody (s := s) (rest := rest) (k := k) (ck := ck) hcc.symm
      have hon : (s.withBody rest k ck d).count.OnStream rest := by
        rw [hcount]
        split <;> exact ⟨hs.config, hs.schedule, hs.abandoned, rfl⟩
      have htScan : (s.withBody rest k ck d).count.tScan = s.tScan := by rw [hcount]; split <;> rfl
      have hend := hgo _ _ rest hon (hd.record hcc.symm) hcounted.i hcounted.config hr
      rw [State.recordsEnd_congr htScan hcounted.scnt] at hend
      exact hend.of_reaches hreach (State.passFrame_nextRecord_count hcc.symm)
    · cases hr
  · next c rest hread =>
    injection hr with hr
    subst hr
    exact ends_of_readWords_stopped hs hp hd (by rw [hk, hb]; exact Nat.le_of_eq (Nat.zero_add _)) hread
  · cases hr

/-- A sync word begins its record (R131). -/
theorem exec_decodeRecord_sync {v : U16} {b : BlockType} (hv : SyncWord v b) (s : State) :
    exec (decodeRecord v) s = .next (s.beginBody b) := by
  rcases hv with ⟨rfl, rfl⟩ | ⟨rfl, rfl⟩ <;> simp [exec_next]

/-- A record with a sync word of its own (R131). -/
theorem ends_of_sync {s : State} {v : U16} {b : BlockType} {ts : List Token} {p : PassSoFar} {r : RecordsEnd}
    {go : PassSoFar → List Token → Option RecordsEnd} (hs : s.OnStream (.word v :: ts)) (hp : s.phase = .recType)
    (hv : SyncWord v b) (hi : s.i.toNat < s.config.nSlots) (hd : s.Did p)
    (hr : recordBody p s.i.toNat b ts go = some r)
    (hgo : ∀ (c : State) (p' : PassSoFar) (rest : List Token), c.OnStream rest → c.Did p' →
      c.i = s.i → c.config = s.config → go p' rest = some r → c.nextRecord.Ends (c.recordsEnd r)) :
    s.Ends (s.recordsEnd r) := by
  refine State.Ends.of_step ?_ hs (s.inPass_eq.mpr (by simp [hp]))
    ((step_sync_word hs hp).trans (exec_decodeRecord_sync hv _))
  exact ends_of_recordBody (s := (s.gotResponse (.oracle ts)).beginBody b)
    ⟨hs.config, hs.schedule, hs.abandoned, rfl⟩ rfl rfl rfl hi ⟨hd.visible, hd.nrec, hd.nacc⟩ hr hgo

/-- A bad word in the sync position ends the pass (R132). -/
theorem ends_of_badSync {s : State} {v : U16} {ts : List Token} {p : PassSoFar} (hs : s.OnStream (.word v :: ts))
    (hp : s.phase = .recType) (hn : v ≠ 0xAA55#16) (hc : v ≠ 0xAA56#16) (hd : s.Did p) :
    s.Ends (s.recordsEnd ⟨.abortBadSync, p, ts⟩) := by
  have hexec : ∀ u : State, exec (decodeRecord v) u = .next (u.abortPass .abortBadSync) := fun u => by
    simp [decodeRecord, hn, hc, exec_next]
  refine State.Ends.of_step ?_ hs (s.inPass_eq.mpr (by simp [hp])) ((step_sync_word hs hp).trans (hexec _))
  exact State.ends_finish (s := s.gotResponse (.oracle ts)) hd.visible hd.nrec hd.nacc rfl

/-- The records behind record I, by induction on how many of them there are (R155). -/
theorem ends_of_laterRecords {n : Nat} {c : State} {p : PassSoFar} {ts : List Token} {r : RecordsEnd}
    (hs : c.OnStream ts) (hd : c.Did p) (hn : c.i.toNat + 1 + n = c.config.nSlots)
    (hr : laterRecords n (c.i.toNat + 1) p ts = some r) : c.nextRecord.Ends (c.recordsEnd r) := by
  induction n generalizing c p ts with
  | zero =>
    injection hr with hr
    subst hr
    rw [State.nextRecord, if_neg (by omega)]
    exact State.ends_finish hd.visible hd.nrec hd.nacc hs.transport
  | succ n ih =>
    obtain ⟨⟨-, hmax⟩, -⟩ := (Config.legal_iff _).mp hs.config
    have hsucc : (c.i + 1#16).toNat = c.i.toNat + 1 := toNat_add_one (by omega)
    have hs' : ({ c with i := c.i + 1#16, phase := .recType } : State).OnStream ts :=
      ⟨hs.config, hs.schedule, hs.abandoned, hs.transport⟩
    have hd' : ({ c with i := c.i + 1#16, phase := .recType } : State).Did p :=
      ⟨hd.visible, hd.nrec, hd.nacc⟩
    have hi : (c.i + 1#16).toNat < c.config.nSlots := by omega
    have hgo : ∀ (c' : State) (p' : PassSoFar) (rest : List Token), c'.OnStream rest → c'.Did p' →
        c'.i = c.i + 1#16 → c'.config = c.config → laterRecords n ((c.i + 1#16).toNat + 1) p' rest = some r →
        c'.nextRecord.Ends (c'.recordsEnd r) := fun c' p' rest hs'' hd'' hi' hc' hr' =>
      ih hs'' hd'' (by rw [hi', hc', hsucc]; omega) (hi' ▸ hr')
    rw [State.nextRecord, if_pos (by omega)]
    unfold laterRecords at hr
    rw [← hsucc] at hr
    split at hr
    · next v rest =>
      split_ifs at hr with hv hv'
      · exact ends_of_sync hs' rfl (.inl ⟨hv, rfl⟩) hi hd' hr hgo
      · exact ends_of_sync hs' rfl (.inr ⟨hv', rfl⟩) hi hd' hr hgo
      · injection hr with hr
        subst hr
        exact ends_of_badSync hs' rfl hv hv' hd'
    · next k rest =>
      injection hr with hr
      subst hr
      exact State.ends_abort hs' rfl hd'
    · cases hr

/-- All records of a pass, from the frame start on (R155). -/
theorem ends_of_recordsRun {s : State} {ts : List Token} {p : PassSoFar} {b : BlockType} {r : RecordsEnd}
    (hs : s.OnStream ts) (hp : s.phase = .recField) (hk : s.k = .checksum) (hb : s.btype = b) (hi : s.i = 0#16)
    (hd : s.Did p) (hr : recordsRun s.config.nSlots p b ts = some r) : s.Ends (s.recordsEnd r) := by
  obtain ⟨⟨hmin, -⟩, -⟩ := (Config.legal_iff _).mp hs.config
  refine ends_of_recordBody hs hp hk hb (by rw [hi]; exact hmin) hd (by rw [hi]; exact hr) ?_
  intro c p' rest hs' hd' hi' hc' hgo
  have h0 : c.i.toNat = 0 := by rw [hi', hi]; rfl
  exact ends_of_laterRecords (n := s.config.nSlots - 1) hs' hd' (by rw [h0, hc']; omega) (by rw [h0]; exact hgo)

/-! ### The scan and the pass (R110, R155) -/

/-- `Pass()` behind its scan (R155). -/
def passAfter (c : Config) (v : Visible) (e : ScanEnd) : Option PassEnd :=
  match e.outcome with
  | .noFrame code => some ⟨code, (v.afterScan e.oos).finish code false .normal 0 0 e.scnt, e.rest⟩
  | .synced t =>
    (recordsRun c.nSlots ⟨v.afterScan e.oos, 0, 0⟩ t e.rest).map fun r =>
      ⟨r.code, r.done.visible.finish r.code true t r.done.nrec r.done.nacc e.scnt, r.rest⟩

theorem passRun_eq (c : Config) (v : Visible) (ts : List Token) :
    passRun c v ts = (scanRun c.scanLimit ts).bind (passAfter c v) := by
  unfold passRun
  cases scanRun c.scanLimit ts with
  | none => rfl
  | some e =>
    rcases e with ⟨_ | _, scnt, oos, rest⟩
    · simp only [passAfter, Option.bind_some]
      cases recordsRun c.nSlots ⟨v.afterScan oos, 0, 0⟩ _ rest <;> rfl
    · rfl

/-- A running scan: what the host sees is `v` with the scan's `oos` out-of-sync words (R118). -/
structure State.Scans (s : State) (v : Visible) (oos : Nat) (ts : List Token) : Prop where
  onStream : s.OnStream ts
  visible : s.visible = v.afterScan oos
  nrec : s.nrec = 0#16
  nacc : s.nacc = 0#16

/-- A scan without a frame ends its pass (R121). -/
theorem State.Scans.ends_noFrame {s : State} {v : Visible} {oos : Nat} {ts : List Token} {code : ResultCode}
    {e : PassEnd} (hs : s.Scans v oos ts) (c : Config)
    (he : passAfter c v ⟨.noFrame code, s.scnt, oos, ts⟩ = some e) : (s.noFrame code).Ends e := by
  injection he with he
  subst he
  exact State.ends_finish hs.visible hs.nrec hs.nacc hs.onStream.transport

/-- A scan that has found a frame goes on with its records (R116, R117). -/
theorem State.Scans.ends_synced {s : State} {v : Visible} {oos : Nat} {ts : List Token} {b : BlockType}
    {e : PassEnd} (hs : s.Scans v oos ts) (he : passAfter s.config v ⟨.synced b, s.scnt, oos, ts⟩ = some e) :
    (s.synced b).Ends e := by
  obtain ⟨r, hr, rfl⟩ := Option.map_eq_some_iff.mp he
  obtain ⟨hc, hsch, ha, ht⟩ := hs.onStream
  have hd : (s.synced b).Did ⟨v.afterScan oos, 0, 0⟩ := ⟨hs.visible, hs.nrec, hs.nacc⟩
  exact ends_of_recordsRun ⟨hc, hsch, ha, ht⟩ rfl rfl rfl rfl hd hr

/-- A scan word is taken off the stream, counted and loaded (R112). -/
theorem State.Scans.word {s : State} {v : Visible} {oos : Nat} {ts : List Token} {w : U16}
    (hs : s.Scans v oos (.word w :: ts)) : ((s.gotResponse (.oracle ts)).takeScanWord w).Scans v oos ts := by
  obtain ⟨hc, hsch, ha, -⟩ := hs.onStream
  exact ⟨⟨hc, hsch, ha, rfl⟩, hs.visible, hs.nrec, hs.nacc⟩

/-- An out-of-sync word is counted and recorded (R118). -/
theorem State.Scans.outOfSync {s : State} {v : Visible} {oos : Nat} {ts : List Token} (hs : s.Scans v oos ts) :
    (({ s with oosCount := s.oosCount + 1#16, phase := .scanByte } : State).emit .outOfSync).Scans v (oos + 1) ts := by
  obtain ⟨⟨hc, hsch, ha, ht⟩, hv, hn, hna⟩ := hs
  refine ⟨⟨hc, hsch, ha, ht⟩, ?_, hn, hna⟩
  have hcount : s.oosCount = v.oosCount + BitVec.ofNat 16 oos := congrArg Visible.oosCount hv
  have hevents : s.events = v.events ++ List.replicate oos .outOfSync := congrArg Visible.events hv
  have hrest : ({ s.visible with oosCount := v.oosCount, events := v.events } : Visible) =
      { v.afterScan oos with oosCount := v.oosCount, events := v.events } := by rw [hv]
  simp only [State.visible, Visible.afterScan, Visible.mk.injEq] at hrest ⊢
  simp [hcount, hevents, hrest, List.replicate_succ', BitVec.ofNat_add, BitVec.add_assoc]

/-- A step that takes a scan word, for a word of the class that the pseudocode finds (R110). -/
theorem State.Scans.step_word {s : State} {v : Visible} {oos : Nat} {ts : List Token} {w : U16}
    (hs : s.Scans v oos (.word w :: ts)) (hp : s.phase = .scanWord) (hl : s.scnt.toNat ≠ s.config.scanLimit) :
    Machine.step s = .next ((s.gotResponse (.oracle ts)).scanned w) :=
  (step_scan_word hs.onStream hp hl).trans (exec_decodeScan _ w)

/-- The scan from any PREV and SCNT on, by the recursion of the pseudocode's loop. -/
theorem ends_of_scanLoop {s : State} {v : Visible} {limit : Nat} {prev scnt : U16} {oos : Nat} {ts : List Token}
    {e : ScanEnd} {pe : PassEnd} (hs : s.Scans v oos ts) (hp : s.phase = .scanWord) (hprev : s.prev = prev)
    (hscnt : s.scnt = scnt) (hlim : s.config.scanLimit = limit) (hr : scanLoop limit prev scnt oos ts = some e)
    (he : passAfter s.config v e = some pe) : s.Ends pe := by
  have hin : s.inPass = true := s.inPass_eq.mpr (.inl hp)
  induction prev, scnt, oos, ts using scanLoop.induct limit generalizing s with
  | case1 ts prev scnt oos h =>
    rw [scanLoop.eq_def, if_pos h] at hr
    injection hr with hr
    subst hr hscnt hprev
    exact (hs.ends_noFrame _ he).of_step hs.onStream hin (step_scan_limit hs.onStream hp (h.trans hlim.symm))
  | case2 prev scnt oos h => simp [scanLoop, h] at hr
  | case3 prev scnt oos h b tail => simp [scanLoop, h] at hr
  | case4 prev scnt oos h c rest =>
    subst hprev hscnt hlim
    simp only [scanLoop, if_neg h, Option.some.injEq] at hr
    subst hr
    obtain ⟨hc, hsch, ha, -⟩ := hs.onStream
    have hs' : (s.gotResponse (.oracle rest)).Scans v oos rest := ⟨⟨hc, hsch, ha, rfl⟩, hs.visible, hs.nrec, hs.nacc⟩
    exact (hs'.ends_noFrame _ he).of_step hs.onStream hin (step_scan_nonData hs.onStream hp h)
  | case5 prev scnt oos h cur rest h0 =>
    subst hprev hscnt hlim
    rw [scanLoop.eq_def, if_neg h] at hr
    simp only [if_pos h0, Option.some.injEq] at hr
    subst hr
    refine State.Ends.of_step ?_ hs.onStream hin (hs.step_word hp h)
    simp only [State.scanned, State.gotResponse_prev, if_pos h0]
    exact hs.word.ends_noFrame _ he
  | case6 prev scnt oos h cur rest h0 h1 =>
    subst hprev hscnt hlim
    rw [scanLoop.eq_def, if_neg h] at hr
    simp only [if_neg h0, if_pos h1, Option.some.injEq] at hr
    subst hr
    refine State.Ends.of_step ?_ hs.onStream hin (hs.step_word hp h)
    simp only [State.scanned, State.gotResponse_prev, if_neg h0, if_pos h1]
    exact hs.word.ends_synced he
  | case7 prev scnt oos h cur rest h0 h1 h2 =>
    subst hprev hscnt hlim
    rw [scanLoop.eq_def, if_neg h] at hr
    simp only [if_neg h0, if_neg h1, if_pos h2, Option.some.injEq] at hr
    subst hr
    refine State.Ends.of_step ?_ hs.onStream hin (hs.step_word hp h)
    simp only [State.scanned, State.gotResponse_prev, if_neg h0, if_neg h1, if_pos h2]
    exact hs.word.ends_synced he
  | case8 prev scnt oos h b rest h0 h1 h2 ih =>
    subst hprev hscnt hlim
    rw [scanLoop.eq_def, if_neg h] at hr
    simp only [if_neg h0, if_neg h1, if_neg h2, if_true] at hr
    refine State.Ends.of_step ?_ hs.onStream hin (hs.step_word hp h)
    simp only [State.scanned, State.gotResponse_prev, if_neg h0, if_neg h1, if_neg h2, if_true]
    have hs' := hs.word.outOfSync
    refine State.Ends.of_step ?_ hs'.onStream rfl (step_scan_byte hs'.onStream rfl)
    obtain ⟨hc, hsch, ha, -⟩ := hs'.onStream
    exact ih ⟨⟨hc, hsch, ha, rfl⟩, hs'.visible, hs'.nrec, hs'.nacc⟩ rfl rfl rfl rfl hr he rfl
  | case9 prev scnt oos h c rest h0 h1 h2 =>
    subst hprev hscnt hlim
    rw [scanLoop.eq_def, if_neg h] at hr
    simp only [if_neg h0, if_neg h1, if_neg h2, if_true, Option.some.injEq] at hr
    subst hr
    refine State.Ends.of_step ?_ hs.onStream hin (hs.step_word hp h)
    simp only [State.scanned, State.gotResponse_prev, if_neg h0, if_neg h1, if_neg h2, if_true]
    have hs' := hs.word.outOfSync
    refine State.Ends.of_step ?_ hs'.onStream rfl (step_scan_noByte hs'.onStream rfl)
    obtain ⟨hc, hsch, ha, -⟩ := hs'.onStream
    exact State.Scans.ends_noFrame ⟨⟨hc, hsch, ha, rfl⟩, hs'.visible, hs'.nrec, hs'.nacc⟩ _ he
  | case10 prev scnt oos h rest hb hn h0 h1 h2 =>
    rw [scanLoop.eq_def, if_neg h] at hr
    simp only [if_neg h0, if_neg h1, if_neg h2, if_true] at hr
    cases hr
  | case11 prev scnt oos h cur rest h0 h1 h2 h3 ih =>
    subst hprev hscnt hlim
    rw [scanLoop.eq_def, if_neg h] at hr
    simp only [if_neg h0, if_neg h1, if_neg h2, if_neg h3] at hr
    refine State.Ends.of_step ?_ hs.onStream hin (hs.step_word hp h)
    simp only [State.scanned, State.gotResponse_prev, if_neg h0, if_neg h1, if_neg h2, if_neg h3]
    obtain ⟨hc, hsch, ha, -⟩ := hs.onStream
    exact ih ⟨⟨hc, hsch, ha, rfl⟩, hs.visible, hs.nrec, hs.nacc⟩ rfl rfl rfl rfl hr he rfl

end Sys2Proof.Machine

/-! PROOFS. Whole commands (42_controller.md R153 to R163): acceptance, the pass, the response and its delivery. -/

namespace Sys2Proof.Machine

/-! ### The response of a pass -/

/-- GET_DETECTION sends what the pass left in the slot (R157, R158). -/
theorem State.detectionRecord_eq_recordOf {t : State} {v : Visible} (hv : t.visible = v)
    (hlen : t.slots.length = t.config.nSlots) (index : U16) : t.detectionRecord index = v.recordOf index := by
  subst hv
  rw [Visible.recordOf, show t.visible.slots = t.slots from rfl]
  by_cases h : index.toNat < t.config.nSlots
  · rw [State.detectionRecord, State.slotAt_of_lt h]
    obtain ⟨slot, hslot⟩ : ∃ slot, t.slots[index.toNat]? = some slot :=
      ⟨_, List.getElem?_eq_getElem (hlen ▸ h)⟩
    rw [hslot]
    cases slot <;> rfl
  · rw [State.detectionRecord_of_slotAt_none (State.slotAt_of_le (Nat.le_of_not_lt h)),
      List.getElem?_eq_none (by omega)]

/-- The response of a pass is that of the command which runs it (R155, R157, R159). -/
theorem State.passResponse_eq {t : State} {i : Instr} {e : PassEnd} {words : List U16}
    (hop : t.cmdOp = opcodeField (commandOf (encode i))) (harg : t.cmdArg = argField (commandOf (encode i)))
    (hv : t.visible = e.visible) (hlen : t.slots.length = t.config.nSlots)
    (hw : passResponseOf i e = some words) : t.passResponse e.code = words := by
  have hslots : t.slots = e.visible.slots := congrArg Visible.slots hv
  cases i <;> simp only [passResponseOf, reduceCtorEq, Option.some.injEq] at hw <;> subst hw
  case update =>
    have h1 : t.cmdOp = 0x01#8 := hop.trans (by simp [encode, commandOf])
    simp [State.passResponse, h1]
  case getDetection index =>
    have h2 : t.cmdOp = 0x02#8 := hop.trans (by simp [encode, commandOf])
    have h2' : t.cmdArg = index := harg.trans (by simp [encode, commandOf])
    simp [State.passResponse, h2, h2', State.detectionRecord_eq_recordOf hv hlen]
  case getAll =>
    have h3 : t.cmdOp = 0x03#8 := hop.trans (by simp [encode, commandOf])
    simp [State.passResponse, h3, hslots]

/-! ### The pass of a command -/

theorem runsPass_of_passResponseOf {i : Instr} {e : PassEnd} {words : List U16}
    (h : passResponseOf i e = some words) : runsPass i = true := by
  cases i <;> simp [passResponseOf] at h <;> rfl

/-- From its acceptance on, a pass ends as the pseudocode says (R155). -/
theorem State.Inv.pass_runs {s : State} {i : Instr} {ts : List Token} {e : PassEnd} {words : List U16}
    (hi : s.Inv) (hp : s.phase = .idle) (hs : s.OnStream ts) (he : passRun s.config s.visible ts = some e)
    (hw : passResponseOf i e = some words) :
    ∃ t, (s.acceptPass i).EndsIn t e ∧ t.response = words := by
  rw [passRun_eq] at he
  obtain ⟨scan, hscan, hafter⟩ := Option.bind_eq_some_iff.mp he
  have hu : (s.acceptPass i).Scans s.visible 0 ts := by
    refine ⟨⟨hs.config, hs.schedule, hs.abandoned, hs.transport⟩, ?_, rfl, rfl⟩
    simp [State.visible, Visible.afterScan]
  obtain ⟨t, ht⟩ := ends_of_scanLoop hu rfl rfl rfl rfl hscan hafter
  have hinv : t.Inv := ht.reaches.inv (hi.acceptPass hp (runsPass_of_passResponseOf hw))
  exact ⟨t, ht, ht.response.trans
    (State.passResponse_eq ht.frame.cmdOp ht.frame.cmdArg ht.visible hinv.registers.1 hw)⟩

/-- Settles O47: the scan by the recursion of `scanLoop`, the records by induction on their number. -/
theorem passRunsAsThePseudocode : Obligations.PassRunsAsThePseudocode := by
  unfold Obligations.PassRunsAsThePseudocode
  intro s u i ts e words hi hp hsch ha ht hu he hw
  rw [exec_of_runsPass (runsPass_of_passResponseOf hw)] at hu
  injection hu with hu
  subst hu
  obtain ⟨t, hend, hresp⟩ := hi.pass_runs hp ⟨hi.config, hsch, ha, ht⟩ he hw
  obtain ⟨n, hn⟩ := hend.reaches
  exact ⟨n, t, hn, hend.phase, hend.visible, hend.transport, hresp, hend.frame.commands, hend.frame.delivered⟩

/-! ### From IDLE to IDLE -/

/-- The block takes the first command offered, whatever the schedule holds after its turn (R150). -/
theorem step_idle_of_commands {s : State} {w : U32} {ws : List U32} (ht : s.blockTurn) (hp : s.phase = .idle)
    (hc : s.commands = w :: ws) : step s = exec (decodeCommand w) { s.dropMove with commands := ws } := by
  have hc' : s.dropMove.commands = w :: ws := hc
  rw [step_block ht.1 ht.2, blockStep_idle (s := s.dropMove) hp, idleStep, hc']
  rfl

/-- The block alone takes the first command offered (R150). -/
theorem step_idle_command {s : State} {word : U32} {more : List U32} (hc : s.config.legal = true)
    (hsch : s.schedule = []) (hp : s.phase = .idle) (hcmd : s.commands = word :: more) :
    step s = exec (decodeCommand word) { s with commands := more } := by
  rw [step_idle_of_commands (State.blockTurn_of_nil hc hsch) hp hcmd, State.dropMove_of_nil hsch]

/-- Settles O48: acceptance, the pass of the pseudocode, then the delivery of its response. -/
theorem passCommandsCompleteWithTheirResponse : Obligations.PassCommandsCompleteWithTheirResponse := by
  unfold Obligations.PassCommandsCompleteWithTheirResponse
  intro s word more ts e words hi hp hsch ha hready hcmd ht he hw
  have hi' : ({ s with commands := more } : State).Inv := hi.withPorts more s.hostReady
  obtain ⟨t, hend, hresp⟩ := hi'.pass_runs (i := decodeCommand word) hp ⟨hi.config, hsch, ha, ht⟩ he hw
  have haccept : step s = .next (({ s with commands := more } : State).acceptPass (decodeCommand word)) :=
    (step_idle_command hi.config hsch hp hcmd).trans (exec_of_runsPass (runsPass_of_passResponseOf hw) _)
  obtain ⟨hconfig, -, -, hcommands, hdelivered, hhost, hschedule, -⟩ := hend.frame
  have hne : words ≠ [] := by
    rw [← hresp, hend.response]
    exact t.passResponse_ne_nil e.code
  have hdeliver := runSteps_deliver (hconfig ▸ hi.config : t.config.legal = true) (hschedule.trans hsch) hend.phase
    (hhost.trans hready) hresp hne
  obtain ⟨n, hn⟩ := ((Reaches.of_step haccept).trans hend.reaches).trans ⟨_, hdeliver⟩
  refine ⟨n, _, hn, rfl, hend.visible, hend.transport, hcommands, ?_⟩
  exact congrArg (· ++ words) hdelivered

/-- A fresh scan is below its limit (R7), so a first response without a value ends its pass (R111, R120). -/
theorem step_fresh_nonData {s : State} {c : NonData} {ts : List Token} (hs : s.OnStream (.nonData c :: ts))
    (hp : s.phase = .scanWord) (hn : s.scnt = 0#16) :
    step s = .next ((s.gotResponse (.oracle ts)).noFrame (.noFrame c)) := by
  refine step_scan_nonData hs hp ?_
  obtain ⟨-, hlimit, -⟩ := (Config.legal_iff s.config).mp hs.config
  rw [hn, BitVec.toNat_ofNat]
  omega

/-- Settles O49: acceptance clears the counts, and the scan's first request ends the pass with them. -/
theorem passWithoutDataKeepsSlotsCountersAndEvents : Obligations.PassWithoutDataKeepsSlotsCountersAndEvents := by
  unfold Obligations.PassWithoutDataKeepsSlotsCountersAndEvents
  intro s word more ts hc hp hsch ha hcmd hr ht
  have haccept : step s = .next (({ s with commands := more } : State).acceptPass (decodeCommand word)) :=
    (step_idle_command hc hsch hp hcmd).trans (exec_of_runsPass hr _)
  have hend := step_fresh_nonData (s := ({ s with commands := more } : State).acceptPass (decodeCommand word))
    ⟨hc, hsch, ha, ht⟩ rfl rfl
  exact ⟨_, _, (runSteps_succ haccept 1).trans (runSteps_succ hend 0),
    rfl, rfl, rfl, rfl, rfl, rfl, rfl, rfl, rfl, rfl, rfl, rfl⟩

end Sys2Proof.Machine

/-! PROOFS. The meanings of the instructions one by one (40_synchronizer.md, 41_record_decoder.md, 42_controller.md),
their frames, and the words they put into the response. -/

namespace Sys2Proof.Machine

/-- Settles O41: `exec_next` names the state that each instruction answers. -/
theorem everyInstructionCompletes : Obligations.EveryInstructionCompletes := by
  unfold Obligations.EveryInstructionCompletes
  exact fun i s => ⟨_, exec_next i s⟩

/-! ### Commands (R150 to R162) -/

/-- The latch of an encoded command holds its OPCODE and ARG (R22, R90). -/
theorem State.latch_commandWord (s : State) (op : U8) (arg : U16) :
    s.latch (commandWord op arg) = { s with cmdOp := op, cmdArg := arg } := by
  simp [State.latch]

/-- Acceptance of the command with the given OPCODE and ARG (R111, R155). -/
theorem State.acceptPass_eq {i : Instr} {op : U8} {arg : U16} (h : encode i = .cmd32 (commandWord op arg))
    (s : State) :
    s.acceptPass i =
      { s with
        cmdOp := op, cmdArg := arg, nrec := 0#16, nacc := 0#16, prev := 0xFFFF#16, scnt := 0#16
        phase := .scanWord } := by
  rw [State.acceptPass, h, commandOf, State.latch_commandWord]
  rfl

/-- Settles O7: the three commands differ in the latch only. -/
theorem passCommandsStartAFreshPass : Obligations.PassCommandsStartAFreshPass := by
  unfold Obligations.PassCommandsStartAFreshPass
  refine fun s => ⟨?_, fun index => ?_, ?_⟩
  all_goals rw [exec_of_runsPass rfl, State.acceptPass_eq rfl]

/-- The eight registers by their numbers (R33, R41, R96). -/
theorem State.register_eq (s : State) (reg : U16) :
    s.register reg =
      if reg = 0x0000#16 then some s.status
      else if reg = 0x0001#16 then some s.lastRecords
      else if reg = 0x0002#16 then some s.lastAccepted
      else if reg = 0x0003#16 then some s.lastScanWords
      else if reg = 0x0004#16 then some s.oosCount
      else if reg = 0x0005#16 then some s.cksumFaultCount
      else if reg = 0x0006#16 then some s.lastFaultSig
      else if reg = 0x0007#16 then some s.capacity
      else none := by
  unfold State.register
  split
  case h_9 => simp_all [BitVec.toNat_eq]
  all_goals
    next h => simp [BitVec.toNat_eq, h]

/-- A register number is mapped up to 7 (R96, R161). -/
theorem State.register_eq_none_iff (s : State) (reg : U16) : s.register reg = none ↔ 7 < reg.toNat := by
  unfold State.register
  split
  case h_9 => simp only [imp_false, true_iff] at *; omega
  all_goals
    next h => simp [h]

/-- The response to READ_REG (R160, R161). -/
def State.regResponse (s : State) (reg : U16) : List U16 :=
  match s.register reg with
  | some value => [0x0000#16, value]
  | none => [0x0010#16]

/-- READ_REG writes the latch, the response and PHASE (R160, R161). -/
theorem exec_readReg (reg : U16) (s : State) :
    exec (.readReg reg) s =
      .next { s with cmdOp := 0x04#8, cmdArg := reg, response := s.regResponse reg, phase := .respond } := by
  rw [exec_next]
  simp only [encode, commandOf, State.latch_commandWord]
  rfl

/-- An illegal command writes the latch, the response and PHASE (R162). -/
theorem exec_illegal (word : U32) (s : State) :
    exec (.illegal word) s =
      .next { s with
        cmdOp := opcodeField word, cmdArg := argField word, response := [0x0010#16], phase := .respond } := by
  rw [exec_next]
  rfl

/-- Settles O8: the register's value where the number has one, and the illegal header where it has none. -/
theorem readRegAnswersTheRegister : Obligations.ReadRegAnswersTheRegister := by
  unfold Obligations.ReadRegAnswersTheRegister
  intro s reg
  rw [exec_readReg, State.regResponse, State.register_eq]
  repeat' split
  all_goals simp_all [State.capacity]

/-- Settles O9: each command's next state is written out as an update of its fields. -/
theorem commandFrame : Obligations.CommandFrame := by
  unfold Obligations.CommandFrame
  intro i s t h
  refine ⟨fun hr => ?pass, fun reg hi => ?reg, fun word hi => ?illegal⟩
  case pass =>
    rw [exec_of_runsPass hr] at h
    cases h
    rfl
  case reg =>
    rw [hi, exec_readReg] at h
    cases h
    rfl
  case illegal =>
    rw [hi, exec_illegal] at h
    cases h
    rfl

/-! ### Scan words (R115 to R119) -/

/-- Settles O10: PREV decides between the end of the pass and the shift. -/
theorem scanZeroWordIsIdleOnlyAfterZero : Obligations.ScanZeroWordIsIdleOnlyAfterZero := by
  unfold Obligations.ScanZeroWordIsIdleOnlyAfterZero
  intro s
  rw [exec_next]
  exact ⟨fun h => by simp only [if_pos h]; rfl, fun h => by simp only [if_neg h]; rfl⟩

/-- Settles O12: the byte's value goes no further than the response, which `takeRecovery` drops. -/
theorem outOfSyncWordReadsOneByteAndShifts : Obligations.OutOfSyncWordReadsOneByteAndShifts := by
  unfold Obligations.OutOfSyncWordReadsOneByteAndShifts
  refine ⟨fun s => exec_next _ s, fun s b t ht hp ha hr => ?_⟩
  rw [step_scanByte ht hp, scanByteStep_of_answered (s := s.dropMove) ha hr]
  rfl

/-- Settles O13: the word is counted, loaded into CUR and shifted. -/
theorem otherScanWordIsShifted : Obligations.OtherScanWordIsShifted := by
  unfold Obligations.OtherScanWordIsShifted
  exact fun s v => exec_next (.scanOther v) s

/-- Settles O15: each class answers one of two states, by PREV, and both are updates of the class's fields. -/
theorem scanWordFrame : Obligations.ScanWordFrame := by
  unfold Obligations.ScanWordFrame
  intro i s t h
  rw [exec_next] at h
  injection h with h
  subst h
  refine ⟨?zero, ?sync, ?outOfSync, ?other⟩
  case zero =>
    rintro rfl
    simp only
    split <;> rfl
  case sync =>
    rintro (rfl | rfl)
    · simp only
      split <;> rfl
    · simp only
      split <;> rfl
  case outOfSync =>
    rintro rfl
    rfl
  case other =>
    rintro v rfl
    rfl

/-! ### Words in a sync position (R131, R132) -/

/-- STATUS of a bad sync word, by the frame's type (R34, R156). -/
theorem statusWord_abortBadSync (t : BlockType) :
    statusWord .abortBadSync true t = match t with | .normal => 0x0017#16 | .colorCode => 0x0037#16 := by
  cases t <;> decide

/-- Settles O19: a sync word begins the body, any other word aborts the pass. -/
theorem syncPositionWordGivesTheRecordType : Obligations.SyncPositionWordGivesTheRecordType := by
  unfold Obligations.SyncPositionWordGivesTheRecordType
  refine fun s => ⟨exec_next .recSyncNormal s, exec_next .recSyncColorCode s, fun v => ?_⟩
  rw [exec_next]
  simp only [State.abortPass, State.finish, statusWord_abortBadSync] <;> rfl

/-- Settles O20: `beginBody` and `abortPass` are updates of those fields. -/
theorem syncPositionWordFrame : Obligations.SyncPositionWordFrame := by
  unfold Obligations.SyncPositionWordFrame
  intro i s t h
  rw [exec_next] at h
  injection h with h
  subst h
  refine ⟨?sync, ?bad⟩
  case sync =>
    rintro (rfl | rfl)
    · rfl
    · rfl
  case bad =>
    rintro v rfl
    rfl

/-! ### Lengths and words of what the host gets (R94, R97) -/

/-- The header, and a value where the number is mapped (R160, R161). -/
theorem State.regResponse_length (s : State) (reg : U16) :
    (s.regResponse reg).length = if reg.toNat ≤ 7 then 2 else 1 := by
  unfold State.regResponse
  split
  next value h =>
    have hle : ¬ 7 < reg.toNat := fun hlt => by simp [(s.register_eq_none_iff reg).mpr hlt] at h
    rw [if_pos (Nat.le_of_not_lt hle)]
    rfl
  next h =>
    rw [if_neg (Nat.not_le_of_lt ((s.register_eq_none_iff reg).mp h))]
    rfl

/-- Settles O27: the latch decides what follows the header; the buffer has N_SLOTS slots by the invariant. -/
theorem responseLengths : Obligations.ResponseLengths := by
  unfold Obligations.ResponseLengths
  intro s code hi
  have hlen : s.slots.length = s.config.nSlots := hi.registers.1
  refine ⟨fun h => ?update, fun h => ?getDetection, fun h => ?getAll, fun reg t h => ?readReg, fun word t h => ?illegal⟩
  case update => simp [State.passResponse, h]
  case getDetection => simp [State.passResponse, h]
  case getAll => simp [State.passResponse, h, hlen, Nat.add_comm, Nat.mul_comm]
  case readReg =>
    rw [exec_readReg] at h
    cases h
    exact s.regResponse_length reg
  case illegal =>
    rw [exec_illegal] at h
    cases h
    rfl

/-- Settles O29. -/
theorem eventRecordWords : Obligations.EventRecordWords := by
  unfold Obligations.EventRecordWords
  exact ⟨rfl, fun _ _ => rfl⟩

end Sys2Proof.Machine

/-! PROOFS. Single steps of the block: what runs when it is its turn (R112, R131, R150), the end of a scan (R120, R123),
and the headers of the responses it begins (R93). -/

namespace Sys2Proof.Machine

/-- Settles O6: each of the three phases hands its word to its own decoder. -/
theorem stepRunsTheDecodedInstruction : Obligations.StepRunsTheDecodedInstruction := by
  unfold Obligations.StepRunsTheDecodedInstruction
  refine fun s ht => ⟨fun w ws hp hc => ?command, fun v t hp hl ha hr => ?scan, fun v t hp ha hr => ?record⟩
  case command => exact step_idle_of_commands ht hp hc
  case scan =>
    rw [step_scanWord ht hp, scanWordStep_of_answered (s := s.dropMove) hl ha hr]
    rfl
  case record =>
    rw [step_recType ht hp, recTypeStep_of_answered (s := s.dropMove) ha hr]
    rfl

/-! ### The end of a scan (R120, R123) -/

/-- Both requests of a scan end it in the same way when they get no value (R120). -/
theorem step_scan_nonData_of_answered {s : State} {c : NonData} {tr : Transport} (ht : s.blockTurn)
    (ha : s.abandoned = none)
    (h : (s.phase = .scanWord ∧ s.scnt.toNat ≠ s.config.scanLimit ∧
        s.transport.readWord = .answered (.nonData c) tr) ∨
      (s.phase = .scanByte ∧ s.transport.readByte = .answered (.nonData c) tr)) :
    step s = .next ((s.dropMove.gotResponse tr).noFrame (.noFrame c)) := by
  rcases h with ⟨hp, hl, hr⟩ | ⟨hp, hr⟩
  · rw [step_scanWord ht hp, scanWordStep_of_answered (s := s.dropMove) hl ha hr, takeScanResponse]
  · rw [step_scanByte ht hp, scanByteStep_of_answered (s := s.dropMove) ha hr, State.takeRecovery]

/-- STATUS of a scan that got no value (R34, R156). -/
theorem statusWord_noFrame (c : NonData) :
    statusWord (.noFrame c) false .normal =
      match c with | .noData => 0x0004#16 | .eos => 0x0005#16 | .fault => 0x0006#16 := by
  cases c <;> decide

/-- Settles O17: `noFrame` writes the end-of-pass registers, the response and PHASE only. -/
theorem responseWithoutValueEndsTheScan : Obligations.ResponseWithoutValueEndsTheScan := by
  unfold Obligations.ResponseWithoutValueEndsTheScan
  intro s c tr ht ha h
  rw [step_scan_nonData_of_answered ht ha h, State.noFrame, State.finish, statusWord_noFrame]
  rfl

/-- A move of the environment leaves PHASE, or is the reset (R4, R46). -/
theorem EnvTo.phase_eq_or_idle {s t : State} {m : Move} (h : EnvTo s m t) : t.phase = s.phase ∨ t.phase = .idle := by
  cases h with
  | reset | resetOwed | resetLate => exact .inr rfl
  | offer | hostReady | arrive | arriveOwed | arriveLate => exact .inl rfl

/-- Of the effects of a scan only a frame start leads into a record (R116, R117). -/
theorem Effect.scanSync_of_inRecord {s t : State} (h : Effect s t) (hs : s.inScan = true) (ht : t.inRecord = true) :
    ∃ v b tr, s.ScanReads (.data v) tr ∧ s.prev = 0xAA55#16 ∧ SyncWord v b ∧
      t = ((s.gotResponse tr).takeScanWord v).synced b := by
  have hnot : s.inRecord = false := by
    rcases s.inScan_iff.mp hs with hp | hp <;> simp [State.inRecord, hp]
  cases h with
  | scanSync v b tr hr hprev hv => exact ⟨v, b, tr, hr, hprev, hv, rfl⟩
  | sync _ _ _ hp | badSync _ _ hp => simp [State.inRecord, hp] at hnot
  | field _ _ _ hr | accept _ _ hr | reject _ _ hr => simp [State.inRecord, hr.phase] at hnot
  | acceptPass _ _ _ hp | deliver hp => simp [State.inScan, hp] at hs
  | idleHold | owed | notTaken | waitWord | waitByte => exact absurd (hnot.symm.trans ht) Bool.false_ne_true
  | recordNonData _ _ hin => simp [hin] at hnot
  | _ => simp [State.inRecord] at ht

/-- Settles O18: the invariant knows that PREV = 0xAA55 was read by this scan, and the word that starts the frame is
counted below the limit. -/
theorem frameStartIsTwoSyncWordsInARow : Obligations.FrameStartIsTwoSyncWordsInARow := by
  unfold Obligations.FrameStartIsTwoSyncWordsInARow
  intro s t hi hs h ht
  obtain ⟨-, ⟨-, he⟩ | ⟨hm, he⟩⟩ := step_effect h
  · obtain ⟨v, b, tr, hr, hprev, hv, rfl⟩ := he.scanSync_of_inRecord hs ht
    have hone : 1 ≤ s.scnt.toNat := hi.scan.2.1 hr.phase hprev
    obtain ⟨hn, hle⟩ := hi.scnt_succ hr.phase hr.below
    refine ⟨hr.phase, hprev, hv, ?_, ?_⟩
    · exact le_trans (Nat.succ_le_succ hone) hn.ge
    · exact hn.le.trans hle
  · rcases he.phase_eq_or_idle with hp | hp
    · rw [State.dropMove_phase] at hp
      rcases s.inScan_iff.mp hs with hs | hs <;> simp [State.inRecord, hp, hs] at ht
    · simp [State.inRecord, hp] at ht

/-! ### Headers (R93, R98) -/

/-- A response that begins with a legal header: RESULT is a result code and the reserved bits are 0, and an illegal
command is answered with the header alone (R93, R98, R162). -/
abbrev HeaderLegal (response : List U16) : Prop :=
  ∃ hdr rest, response = hdr :: rest ∧ (hdr.extractLsb' 0 4).toNat ≤ 0xA ∧ hdr.extractLsb' 5 11 = 0#11 ∧
    (hdr.getLsbD 4 = true → hdr.extractLsb' 0 4 = 0#4 ∧ rest = [])

/-- A header with ILLEGAL = 0, whatever follows it. -/
theorem headerLegal_respHdr (code : ResultCode) (rest : List U16) : HeaderLegal (respHdr code false :: rest) := by
  obtain ⟨hcode, hillegal, hreserved⟩ := respHdr_fields code false
  exact ⟨_, _, rfl, hcode ▸ code.code_le, hreserved, fun h => absurd (hillegal.symm.trans h) Bool.false_ne_true⟩

/-- The header of an illegal command (R161, R162). -/
theorem headerLegal_illegal : HeaderLegal [respHdr .none true] := by
  obtain ⟨hcode, -, hreserved⟩ := respHdr_fields .none true
  exact ⟨_, _, rfl, hcode ▸ ResultCode.none.code_le, hreserved, fun _ => ⟨hcode, rfl⟩⟩

theorem headerLegal_passResponse (s : State) (code : ResultCode) : HeaderLegal (s.passResponse code) :=
  headerLegal_respHdr code _

/-- After the last record the pass ends, after any other the next sync word is read (R155). -/
theorem State.headerLegal_nextRecord {s : State} (h : s.nextRecord.phase = .respond) :
    HeaderLegal s.nextRecord.response := by
  rcases s.nextRecord_cases with ⟨-, hn⟩ | ⟨-, hn⟩
  · simp [hn] at h
  · rw [hn]
    exact headerLegal_passResponse s .frameComplete

/-- A response begins with the end of a pass, or with a command that runs none (R156, R160 to R162). -/
theorem Effect.headerLegal {s t : State} (h : Effect s t) (hs : s.phase ≠ .respond) (ht : t.phase = .respond) :
    HeaderLegal t.response := by
  cases h with
  | acceptReg => exact headerLegal_respHdr .none _
  | acceptBad => exact headerLegal_illegal
  | scanLimit | scanIdle | scanNonData | byteNonData | badSync | recordNonData => exact headerLegal_passResponse _ _
  | accept | reject => exact State.headerLegal_nextRecord ht
  | idleHold | owed | waitWord | waitByte => exact absurd ht hs
  | deliver hp | notTaken hp => exact absurd hp hs
  | acceptPass | scanSync | scanOutOfSync | scanShift | byteData | sync => simp at ht
  | field _ _ _ hr => simp [hr.phase] at ht

/-- Settles O30: no move of the environment begins a response. -/
theorem responseHeadersAreLegal : Obligations.ResponseHeadersAreLegal := by
  unfold Obligations.ResponseHeadersAreLegal
  intro s t h hs ht
  obtain ⟨-, ⟨-, he⟩ | ⟨-, he⟩⟩ := step_effect h
  · exact he.headerLegal hs ht
  · rcases he.phase_eq_or_idle with hp | hp
    · exact absurd (hp.symm.trans ht) hs
    · simp [hp] at ht

end Sys2Proof.Machine

/-! PROOFS. Holds, ports and reset (20_memory.md R67, 42_controller.md R150, 60_exceptions.md R182,
70_reset_and_hazards.md R201). -/

namespace Sys2Proof.Machine

/-! ### The command port (R150) -/

/-- The block takes a command in IDLE only. -/
theorem Effect.commands_eq {s t : State} (h : Effect s t) (hp : s.phase ≠ .idle) : t.commands = s.commands := by
  cases h with
  | acceptPass _ _ _ hi | acceptReg _ _ _ _ hi | acceptBad _ _ _ hi => exact absurd hi hp
  | accept | reject => simp [State.lastField]
  | _ => simp

/-- An offer reaches the command port and nothing else. -/
theorem EnvTo.offer_eq {s t : State} {c : U32} (h : EnvTo s (.offer c) t) :
    t = { s with commands := s.commands ++ [c] } := by
  cases h with
  | offer => rfl
  | arrive _ _ hf | arriveOwed _ _ _ hf | arriveLate _ _ _ _ _ hf => simp at hf

/-- Settles O34: no effect outside IDLE writes the port, and an offer goes to its end. -/
theorem commandsWaitUntilIdle : Obligations.CommandsWaitUntilIdle := by
  unfold Obligations.CommandsWaitUntilIdle
  intro s t h
  obtain ⟨-, ⟨hb, he⟩ | ⟨hb, he⟩⟩ := step_effect h
  · exact ⟨fun _ hp => he.commands_eq hp, fun c hm => by cases hb.symm.trans hm⟩
  · refine ⟨fun hm => absurd hm hb, fun c hm => ?_⟩
    rw [hm] at he
    rw [he.offer_eq]
    exact ⟨rfl, rfl⟩

/-! ### Holds (R67, R182) -/

/-- A word that is taken leaves the transport (R61). -/
theorem Transport.ne_of_readWord_data {t tr : Transport} {v : U16} (h : t.readWord = .answered (.data v) tr) :
    tr ≠ t := by
  cases t with
  | oracle ts =>
    rcases oracleReadWord_answered h with ⟨w, rest, rfl, -, rfl⟩ | ⟨c, rest, -, hr, -⟩
    · simp
    · cases hr
  | reference q =>
    rcases RefTransport.readWord_answered h with ⟨b0, b1, rest, hq, -, rfl⟩ | ⟨c, hr, -⟩
    · intro he
      injection he with he
      have hlen := congrArg (fun r => r.queue.length) he
      simp only [hq, List.length_cons] at hlen
      omega
    · cases hr

/-- The delivery of a word shortens the response (R151). -/
theorem State.deliver_response_ne {s : State} (h : s.response ≠ []) : s.deliver.response ≠ s.response := by
  rcases s.deliver_cases with ⟨hr, -⟩ | ⟨w, hr, hd⟩ | ⟨w, w', ws, hr, hd⟩
  · exact absurd hr h
  · simp [hr, hd]
  · simp [hr, hd]

/-- The next record begins in another phase than the last one ends (R155). -/
theorem State.nextRecord_phase_ne (s : State) : s.nextRecord.phase ≠ .recField := by
  rcases s.nextRecord_cases with ⟨-, hn⟩ | ⟨-, hn⟩ <;> simp [hn]

/-- An effect that is no hold changes PHASE, or takes a word off the stream, or a response word (R182). -/
theorem Effect.hold {s t : State} (h : Effect s t) (hne : s.phase = .respond → s.response ≠ [])
    (hphase : t.phase = s.phase) (htr : t.transport = s.transport) (hresp : t.response = s.response) :
    (s.phase = .idle ∧ s.commands = []) ∨ (s.phase = .respond ∧ s.hostReady = false) ∨
      (s.inPass = true ∧
        (s.abandoned ≠ none ∨ (s.phase ≠ .scanByte ∧ s.transport.readWord = .waiting) ∨
          (s.phase = .scanByte ∧ s.transport.readByte = .waiting))) := by
  cases h with
  | idleHold hp hc => exact .inl ⟨hp, hc⟩
  | notTaken hp hr => exact .inr (.inl ⟨hp, hr⟩)
  | owed hin ha => exact .inr (.inr ⟨hin, .inl ha⟩)
  | waitWord _ hr hp =>
    have hin : s.inPass = true := s.inPass_iff.mpr (hp.imp_left fun h => s.inScan_iff.mpr (.inl h.1))
    have hbyte : s.phase ≠ .scanByte := by
      rcases hp with ⟨hp, -⟩ | hp
      · simp [hp]
      · rcases s.inRecord_iff.mp hp with hp | hp <;> simp [hp]
    exact .inr (.inr ⟨hin, .inr (.inl ⟨hbyte, hr⟩)⟩)
  | waitByte _ hr hp => exact .inr (.inr ⟨s.inPass_eq.mpr (by simp [hp]), .inr (.inr ⟨hp, hr⟩)⟩)
  | scanShift v tr hr => exact absurd (by simpa using htr) (Transport.ne_of_readWord_data hr.reply)
  | field v k tr hr => exact absurd (by simpa using htr) (Transport.ne_of_readWord_data hr.reply)
  | deliver hp => exact absurd hresp (State.deliver_response_ne (hne hp))
  | accept v tr hr | reject v tr hr => exact absurd (hphase.trans hr.phase) (State.nextRecord_phase_ne _)
  | scanIdle _ hr | scanSync _ _ _ hr | scanOutOfSync _ hr | scanNonData _ _ hr => simp [hr.phase] at hphase
  | recordNonData _ _ hin => rcases s.inRecord_iff.mp hin with hp | hp <;> simp [hp] at hphase
  | acceptPass _ _ _ hp | acceptReg _ _ _ _ hp | acceptBad _ _ _ hp | scanLimit hp | byteData _ _ hp
  | byteNonData _ _ hp | sync _ _ _ hp | badSync _ _ hp => simp [hp] at hphase

/-- Settles O33: by the invariant a response is in flight in RESPOND, so that a delivery is progress. -/
theorem onlyHoldsStopTheBlock : Obligations.OnlyHoldsStopTheBlock := by
  unfold Obligations.OnlyHoldsStopTheBlock
  intro s t hi ht h hphase htr hresp _
  obtain ⟨-, ⟨-, he⟩ | ⟨hm, -⟩⟩ := step_effect h
  · exact he.hold hi.ports.2.1 hphase htr hresp
  · exact absurd ht.2 hm

/-! ### Refusals (R182, item S6) -/

/-- No fault, and a refusal exactly where `p` holds (log 16). -/
structure RefusesIff (r : Result State) (p : Prop) : Prop where
  noFault : ∀ f, r ≠ .fault f
  refused : ∀ why, r = .refused why ↔ why = .tokenDoesNotFit ∧ p

theorem refusesIff_next {p : Prop} (t : State) (hp : ¬ p) : RefusesIff (.next t) p :=
  ⟨by simp, by simp [hp]⟩

/-- A request whose response is always taken is refused exactly for a token that does not fit it. -/
theorem State.refusesIff_request {α : Type} {s : State} {w : Width} {reply : Reply α}
    {go : Response α → State → Result State} (hgo : ∀ r tr, ∃ t, go r (s.gotResponse tr) = .next t) :
    RefusesIff (s.request w reply go) (s.abandoned = none ∧ reply = .unfit) := by
  unfold State.request
  split
  next ha => exact refusesIff_next _ (by simp [ha])
  next ha =>
    cases reply with
    | answered r tr =>
      obtain ⟨t, ht⟩ := hgo r tr
      simp only [ht]
      exact refusesIff_next _ (by simp)
    | waiting => exact refusesIff_next _ (by simp)
    | unfit => exact ⟨by simp, by simp [ha, eq_comm]⟩

/-- Whatever the response, the scan goes on or ends (R112, R120). -/
theorem takeScanResponse_next (r : Response U16) (s : State) : ∃ t, takeScanResponse r s = .next t := by
  cases r with
  | data v => exact ⟨_, exec_next _ s⟩
  | nonData c => exact ⟨_, rfl⟩

theorem takeRecovery_next (r : Response U8) (s : State) : ∃ t, s.takeRecovery r = .next t := by
  obtain ⟨t, ht, -⟩ := s.takeRecovery_keeps_scnt r
  exact ⟨t, ht⟩

theorem takeSyncResponse_next (r : Response U16) (s : State) : ∃ t, takeSyncResponse r s = .next t := by
  cases r with
  | data v => exact ⟨_, exec_next _ s⟩
  | nonData c => exact ⟨_, rfl⟩

/-- A record of an index below N_SLOTS has a slot to go to (R14, R137). -/
theorem takeBodyWord_next (r : Response U16) {s : State} (hi : s.i.toNat < s.config.nSlots) :
    ∃ t, s.takeBodyWord r = .next t := by
  cases r with
  | data v =>
    simp only [State.takeBodyWord, State.takeField]
    split
    · exact ⟨_, rfl⟩
    · exact ⟨_, State.endRecord_of_lt (by simpa using hi)⟩
  | nonData c => exact ⟨_, rfl⟩

/-- The phase issues a request that the front token does not fit (item S6). -/
abbrev State.Unfit (s : State) : Prop :=
  s.abandoned = none ∧
    ((s.phase = .scanByte ∧ s.transport.readByte = .unfit) ∨
      ((s.phase = .scanWord ∧ s.scnt.toNat ≠ s.config.scanLimit ∨ s.inRecord = true) ∧
        s.transport.readWord = .unfit))

/-- The block refuses a token only, and by the invariant it never faults (R182). -/
theorem State.Inv.blockStep_refusesIff {s : State} (hi : s.Inv) : RefusesIff (blockStep s) s.Unfit := by
  cases hp : s.phase with
  | idle =>
    rw [blockStep_idle hp, idleStep]
    have hfit : ¬ s.Unfit := by simp [State.Unfit, State.inRecord, hp]
    split
    · exact refusesIff_next _ hfit
    · rw [exec_next]
      exact refusesIff_next _ hfit
  | scanWord =>
    rw [blockStep_scanWord hp, scanWordStep]
    split
    next hl => exact refusesIff_next _ (by simp [State.Unfit, State.inRecord, hp, hl])
    next hl =>
      simpa [State.Unfit, State.inRecord, hp, hl] using
        s.refusesIff_request (w := .word) fun r tr => takeScanResponse_next r _
  | scanByte =>
    rw [blockStep_scanByte hp, scanByteStep]
    simpa [State.Unfit, State.inRecord, hp] using
      s.refusesIff_request (w := .byte) fun r tr => takeRecovery_next r _
  | recType =>
    rw [blockStep_recType hp, recTypeStep]
    simpa [State.Unfit, State.inRecord, hp] using
      s.refusesIff_request (w := .word) fun r tr => takeSyncResponse_next r _
  | recField =>
    rw [blockStep_recField hp, recFieldStep]
    have hslot : s.i.toNat < s.config.nSlots := (hi.record.1 (s.inRecord_iff.mpr (.inr hp))).1
    simpa [State.Unfit, State.inRecord, hp] using
      s.refusesIff_request (w := .word) fun r tr => takeBodyWord_next r hslot
  | respond =>
    rw [blockStep_respond hp, respondStep]
    have hfit : ¬ s.Unfit := by simp [State.Unfit, State.inRecord, hp]
    split <;> exact refusesIff_next _ hfit

/-- A discarded response is taken, awaited or refused (R201). -/
theorem State.dropResponse_ne_fault (s : State) (w : Width) (f : Fault) : s.dropResponse w ≠ .fault f := by
  unfold State.dropResponse
  split <;> simp

/-- No move of the environment faults. -/
theorem envMove_ne_fault (m : Move) (s : State) (f : Fault) : envMove m s ≠ .fault f := by
  have hfeed : ∀ m, feedTransport m s ≠ .fault f := by
    intro m
    unfold feedTransport State.settleAbandoned
    split
    · split
      · simp
      · exact State.dropResponse_ne_fault _ _ f
    · simp
  cases m with
  | block | offer | hostReady => simp [envMove]
  | token | item | endStream => exact hfeed _
  | reset =>
    change doReset s ≠ _
    unfold doReset
    split
    · simp
    · exact State.dropResponse_ne_fault _ _ f

/-- Settles O40: the block's step refuses what does not fit, and the environment's moves have no fault. -/
theorem noStepFaults : Obligations.NoStepFaults := by
  unfold Obligations.NoStepFaults
  intro s hi
  have hblock : nextMove s = .block → RefusesIff (step s) s.Unfit := fun hm => by
    rw [step_block hi.config hm]
    exact hi.dropMove.blockStep_refusesIff
  refine ⟨fun f => ?_, fun hm => (hblock hm).refused⟩
  by_cases hm : nextMove s = .block
  · exact (hblock hm).noFault f
  · rw [step_env hi.config hm]
    exact envMove_ne_fault _ _ f

/-! ### Abandoned requests (R201) -/

/-- The response is there: it is consumed, and a byte moves the stream by one (R45, R201). -/
theorem State.dropResponse_of_done {s : State} {w : Width} {tr : Transport} {data : Bool}
    (h : s.transport.discard w = .done tr data) :
    s.dropResponse w =
      .next { s with transport := tr, abandoned := none, alignment := s.alignment.after w data } := by
  simp only [State.dropResponse, h]
  rfl

/-- There is no response yet: the request is remembered (log 12). -/
theorem State.dropResponse_of_waiting {s : State} {w : Width} (h : s.transport.discard w = .waiting) :
    s.dropResponse w = .next { s with abandoned := some w } := by
  simp only [State.dropResponse, h]

/-- A step whose move is reset. -/
theorem step_reset {s : State} (hc : s.config.legal = true) (hm : nextMove s = .reset) :
    step s = doReset s.dropMove := by
  rw [step_env hc (by simp [hm]), hm]
  rfl

theorem doReset_of_none {s : State} (h : s.outstanding = none) : doReset s = .next s.resetBlock := by
  simp only [doReset, h]

theorem doReset_of_some {s : State} {w : Width} (h : s.outstanding = some w) :
    doReset s = ({ s.resetBlock with outstanding := none } : State).dropResponse w := by
  simp only [doReset, h]

/-- Settles O36: by what the transport has of the outstanding request when the reset arrives. -/
theorem resetAbandonsTheOutstandingRequest : Obligations.ResetAbandonsTheOutstandingRequest := by
  unfold Obligations.ResetAbandonsTheOutstandingRequest
  intro s hc hm
  rw [step_reset hc hm]
  refine ⟨fun t h => ?ports, fun ho => ?none, fun w ho hd => ?waiting, fun w tr data ho hd => ?done⟩
  case ports =>
    obtain ⟨tr, ab, al, rfl⟩ := (step_reset_envTo hm ((step_reset hc hm).trans h)).reset_eq
    exact ⟨rfl, rfl, rfl⟩
  case none => exact ⟨_, doReset_of_none (s := s.dropMove) ho, rfl, rfl, rfl⟩
  case waiting =>
    exact ⟨_, (doReset_of_some (s := s.dropMove) ho).trans (State.dropResponse_of_waiting hd), rfl, rfl, rfl⟩
  case done =>
    exact ⟨_, (doReset_of_some (s := s.dropMove) ho).trans (State.dropResponse_of_done hd), rfl, rfl, rfl⟩

/-- A move that reaches the transport settles at once what the transport owes (R201). -/
theorem step_feed {s : State} {tr : Transport} (hc : s.config.legal = true)
    (hf : s.transport.feed (nextMove s) = some tr) :
    step s = ({ s.dropMove with transport := tr } : State).settleAbandoned := by
  have hfeed : feedTransport (nextMove s) s.dropMove =
      ({ s.dropMove with transport := tr } : State).settleAbandoned := by
    rw [feedTransport, show s.dropMove.transport.feed (nextMove s) = some tr from hf]
  rw [← hfeed]
  cases hm : nextMove s with
  | block | offer | hostReady | reset => simp [hm] at hf
  | token | item | endStream =>
    rw [step_env hc (by simp [hm]), hm]
    rfl

/-- The late response is there. -/
theorem step_feed_done {s : State} {tr tr' : Transport} {w : Width} {data : Bool} (hc : s.config.legal = true)
    (hf : s.transport.feed (nextMove s) = some tr) (ha : s.abandoned = some w) (hd : tr.discard w = .done tr' data) :
    step s = .next { s.dropMove with
      transport := tr', abandoned := none, alignment := s.alignment.after w data } := by
  rw [step_feed hc hf]
  simp only [State.settleAbandoned, State.dropMove_abandoned, ha]
  rw [State.dropResponse_of_done hd]
  rfl

/-- The late response is still not there. -/
theorem step_feed_waiting {s : State} {tr : Transport} {w : Width} (hc : s.config.legal = true)
    (hf : s.transport.feed (nextMove s) = some tr) (ha : s.abandoned = some w) (hd : tr.discard w = .waiting) :
    step s = .next { s.dropMove with transport := tr } := by
  rw [step_feed hc hf]
  simp only [State.settleAbandoned, State.dropMove_abandoned, ha]
  rw [State.dropResponse_of_waiting hd, ← ha]

/-- The token that arrives at an oracle without tokens is the late response itself, where it fits (R4). -/
theorem step_token_done {s : State} {x : Token} {w : Width} {data : Bool} (hc : s.config.legal = true)
    (ht : s.transport = .oracle []) (hm : nextMove s = .token x) (ha : s.abandoned = some w)
    (hd : (Transport.oracle [x]).discard w = .done (.oracle []) data) :
    step s = .next { s with
      schedule := s.schedule.tail, abandoned := none, alignment := s.alignment.after w data } := by
  have hf : s.transport.feed (nextMove s) = some (.oracle [x]) := by rw [ht, hm]; rfl
  rw [step_feed_done hc hf ha hd, ← ht]
  rfl

/-- Settles O37: the oracle's clauses are the first one at a single token. -/
theorem lateResponseOfAnAbandonedRequestIsDiscarded : Obligations.LateResponseOfAnAbandonedRequestIsDiscarded := by
  unfold Obligations.LateResponseOfAnAbandonedRequestIsDiscarded
  refine fun s hc => ⟨fun tr tr' w data hf ha hd => step_feed_done hc hf ha hd,
    fun tr w hf ha hd => step_feed_waiting hc hf ha hd, fun ht => ⟨fun v hm ha => ?word, fun b hm ha => ?byte,
      fun c w hm ha => ?nonData⟩⟩
  case word => exact step_token_done (data := true) hc ht hm ha rfl
  case byte => exact step_token_done (data := true) hc ht hm ha rfl
  case nonData =>
    cases w with
    | word => exact step_token_done (data := false) hc ht hm ha rfl
    | byte => exact step_token_done (data := false) hc ht hm ha rfl

end Sys2Proof.Machine

/-! PROOFS. The reference transport (20_memory.md R61 to R65) and the alignment phase of its stream (10_state.md R45). -/

namespace Sys2Proof.Machine

/-! ### The answers of the reference transport (R62) -/

/-- Settles O54: `readByte` by the front of the queue. -/
theorem referenceTransportAnswersByteRequests : Obligations.ReferenceTransportAnswersByteRequests := by
  unfold Obligations.ReferenceTransportAnswersByteRequests
  exact fun q ended nb e b => ⟨rfl, rfl, rfl, rfl, rfl⟩

/-- Settles O55: `readWord` by the first two items of the queue. -/
theorem referenceTransportAnswersWordRequests : Obligations.ReferenceTransportAnswersWordRequests := by
  unfold Obligations.ReferenceTransportAnswersWordRequests
  refine fun q ended nb e b0 b1 => ⟨rfl, rfl, rfl, rfl, fun short hshort => ?_⟩
  rcases hshort with rfl | rfl
  · exact ⟨rfl, rfl, rfl⟩
  · exact ⟨rfl, rfl, rfl⟩

/-! ### Words on the wire (R63, R86) -/

/-- A word has two bytes on the wire, and they assemble to the word. -/
theorem wireBytes_assemble (e : Endian) (v : U16) :
    ∃ b0 b1, wireBytes e v = [b0, b1] ∧ assemble e b0 b1 = v := by
  have happend : v.extractLsb' 8 8 ++ v.extractLsb' 0 8 = v := BitVec.extractLsb'_append_extractLsb'
  cases e with
  | little => exact ⟨_, _, rfl, happend⟩
  | big => exact ⟨_, _, rfl, happend⟩

/-- Two bytes at the front of the queue are read as their word (R62). -/
theorem readWord_bytes (b0 b1 : U8) (q : List QueueItem) (ended nb : Bool) (e : Endian) :
    RefTransport.readWord ⟨.byte b0 :: .byte b1 :: q, ended, e, nb⟩ =
      .answered (.data (assemble e b0 b1)) (.reference ⟨q, ended, e, nb⟩) := rfl

/-- Settles O57: the reference transport assembles the two bytes it finds at the front. -/
theorem wordsSurviveTheWire : Obligations.WordsSurviveTheWire := by
  unfold Obligations.WordsSurviveTheWire
  refine ⟨fun e v q ended nb => ?_, by decide⟩
  obtain ⟨b0, b1, hw, hv⟩ := wireBytes_assemble e v
  rw [hw, List.map_cons, List.map_cons, List.map_nil]
  exact hv ▸ readWord_bytes b0 b1 q ended nb e

/-- Settles O58: the straddle is the second byte of 0xAA55 and the nearer byte of `w2`. -/
theorem misalignedFrameStartRealignsAfterTheSecondWord :
    Obligations.MisalignedFrameStartRealignsAfterTheSecondWord := by
  unfold Obligations.MisalignedFrameStartRealignsAfterTheSecondWord
  have hword : 0x55AA#16 = 0x55#8 ++ 0xAA#8 := by decide
  intro e w2 q ended nb
  rw [hword]
  cases e with
  | little =>
    refine ⟨assemble .little 0xAA#8 (w2.extractLsb' 0 8), w2.extractLsb' 8 8, rfl, rfl, BitVec.append_left_inj _⟩
  | big =>
    refine ⟨assemble .big 0x55#8 (w2.extractLsb' 8 8), w2.extractLsb' 0 8, rfl, rfl, BitVec.append_right_inj _⟩

/-! ### The queue in the sender's words (R45, R61) -/

/-- Two bytes on, whatever the offset, is one word on. -/
theorem drop_two_wire (e : Endian) (a : Nat) (words : List U16) :
    ((words.flatMap (wireBytes e)).drop a).drop 2 = (words.tail.flatMap (wireBytes e)).drop a := by
  cases words with
  | nil => simp
  | cons w ws =>
    obtain ⟨b0, b1, hw, -⟩ := wireBytes_assemble e w
    simp [hw, List.drop_drop]

/-- One byte on is the other alignment phase, in the next word where the phase was shifted. -/
theorem drop_one_wire (e : Endian) (a : AlignmentPhase) (words : List U16) :
    ((words.flatMap (wireBytes e)).drop a.offset).drop 1 =
      ((words.drop a.offset).flatMap (wireBytes e)).drop a.flip.offset := by
  cases a with
  | aligned => rfl
  | shifted =>
    have h := drop_two_wire e 0 words
    rw [List.drop_zero, List.drop_zero] at h
    simpa [AlignmentPhase.offset, AlignmentPhase.flip, List.drop_drop] using h

/-- A word read keeps the phase (R45, R61). -/
theorem RefTransport.framed.wordRead {t : RefTransport} {a : AlignmentPhase} {words : List U16} {b0 b1 : U8}
    {q : List QueueItem} (h : t.framed a words) (hq : t.queue = .byte b0 :: .byte b1 :: q) :
    RefTransport.framed { t with queue := q } a words.tail := by
  have hdrop : q = t.queue.drop 2 := by rw [hq]; rfl
  rw [RefTransport.framed, ← drop_two_wire, List.map_drop, ← h, ← hdrop]

/-- A byte read flips the phase (R45, R61). -/
theorem RefTransport.framed.byteRead {t : RefTransport} {a : AlignmentPhase} {words : List U16} {b : U8}
    {q : List QueueItem} (h : t.framed a words) (hq : t.queue = .byte b :: q) :
    RefTransport.framed { t with queue := q } a.flip (words.drop a.offset) := by
  have hdrop : q = t.queue.drop 1 := by rw [hq]; rfl
  rw [RefTransport.framed, ← drop_one_wire, List.map_drop, ← h, ← hdrop]

/-- An aligned word read gives the sender's word (R65). -/
theorem RefTransport.framed.head {t : RefTransport} {words : List U16} {b0 b1 : U8} {q : List QueueItem}
    (h : t.framed .aligned words) (hq : t.queue = .byte b0 :: .byte b1 :: q) :
    words.head? = some (assemble t.endian b0 b1) := by
  rw [RefTransport.framed, hq] at h
  cases words with
  | nil => simp at h
  | cons w ws =>
    obtain ⟨c0, c1, hw, hv⟩ := wireBytes_assemble t.endian w
    simp [hw, AlignmentPhase.offset] at h
    obtain ⟨rfl, rfl, -⟩ := h
    rw [List.head?_cons, hv]

/-- Settles O56: what a read takes off the queue is dropped from the front of the sender's bytes. -/
theorem dataReadsConsumeAndShiftAlignment : Obligations.DataReadsConsumeAndShiftAlignment := by
  unfold Obligations.DataReadsConsumeAndShiftAlignment
  refine fun t tr => ⟨fun v h => ?word, fun b h => ?byte⟩
  case word =>
    rcases RefTransport.readWord_answered h with ⟨b0, b1, q, hq, hv, htr⟩ | ⟨c, hc, -⟩
    · injection hv with hv
      subst hv
      exact ⟨b0, b1, q, hq, rfl, htr, fun words hf => hf.head hq, fun a words hf => hf.wordRead hq⟩
    · cases hc
  case byte =>
    rcases RefTransport.readByte_answered h with ⟨b', q, hq, hb, htr⟩ | ⟨c, hc, -⟩
    · injection hb with hb
      subst hb
      exact ⟨q, hq, htr, fun a words hf => hf.byteRead hq⟩
    · cases hc

end Sys2Proof.Machine

/-! PROOFS. The alignment phase over all steps (10_state.md R45, 70_reset_and_hazards.md R202): every step leaves the
stream, brings it something, or takes the response to one request. -/

namespace Sys2Proof.Machine

/-! ### What a step does to the stream -/

/-- A response that is taken is a request's discarded one, as far as the stream goes (R61, R201). -/
theorem Transport.discard_of_readWord {t tr : Transport} {r : Response U16} (h : t.readWord = .answered r tr) :
    ∃ data, t.discard .word = .done tr data := by
  cases r with
  | data v => exact ⟨true, by rw [Transport.discard, h, Reply.discard]⟩
  | nonData c => exact ⟨false, by rw [Transport.discard, h, Reply.discard]⟩

theorem Transport.discard_of_readByte_data {t tr : Transport} {b : U8} (h : t.readByte = .answered (.data b) tr) :
    t.discard .byte = .done tr true := by
  rw [Transport.discard, h, Reply.discard]

theorem Transport.discard_of_readByte_nonData {t tr : Transport} {c : NonData}
    (h : t.readByte = .answered (.nonData c) tr) : t.discard .byte = .done tr false := by
  rw [Transport.discard, h, Reply.discard]

/-- What the move `m` from `s` to `t` does to the transport and its alignment phase: nothing; something arrives; or
the response to a request is taken, by the block, by a reset, or late (R61, R62, R201). -/
inductive StreamTo (s : State) (m : Move) (t : State) : Prop where
  | kept : t.transport = s.transport → t.alignment = s.alignment → StreamTo s m t
  | fed : s.transport.feed m = some t.transport → t.alignment = s.alignment → StreamTo s m t
  | byBlock (w : Width) (data : Bool) : m = .block → (w = .byte → s.phase = .scanByte ∧ s.abandoned = none) →
      s.transport.discard w = .done t.transport data → t.alignment = s.alignment.after w data → StreamTo s m t
  | byReset (w : Width) (data : Bool) : m = .reset → s.outstanding = some w →
      s.transport.discard w = .done t.transport data → t.alignment = s.alignment.after w data → StreamTo s m t
  | late (w : Width) (data : Bool) (tr : Transport) : s.transport.feed m = some tr → s.abandoned = some w →
      tr.discard w = .done t.transport data → t.alignment = s.alignment.after w data → StreamTo s m t

/-- The block takes the response to a word request. -/
theorem StreamTo.word {s t : State} {r : Response U16} {tr : Transport} (h : s.transport.readWord = .answered r tr)
    (ht : t.transport = tr) (ha : t.alignment = s.alignment) : StreamTo s .block t := by
  obtain ⟨data, hd⟩ := Transport.discard_of_readWord h
  exact .byBlock .word data rfl (by simp) (ht ▸ hd) ha

theorem Effect.streamTo {s t : State} (h : Effect s t) : StreamTo s .block t := by
  cases h with
  | byteData b tr hp ha hr =>
    exact .byBlock .byte true rfl (fun _ => ⟨hp, ha⟩) (Transport.discard_of_readByte_data hr) rfl
  | byteNonData c tr hp ha hr =>
    exact .byBlock .byte false rfl (fun _ => ⟨hp, ha⟩) (Transport.discard_of_readByte_nonData hr) rfl
  | scanIdle tr hr | scanSync _ _ tr hr | scanOutOfSync tr hr | scanShift _ tr hr | scanNonData _ tr hr
  | field _ _ tr hr => exact .word hr.reply (by simp) (by simp)
  | accept _ tr hr | reject _ tr hr =>
    exact .word hr.reply (by simp [State.lastField]) (by simp [State.lastField])
  | sync _ _ _ _ _ hr | badSync _ _ _ _ hr | recordNonData _ _ _ _ hr => exact .word hr (by simp) (by simp)
  | _ => exact .kept (by simp) (by simp)

theorem EnvTo.streamTo {s t : State} {m : Move} (h : EnvTo s m t) : StreamTo s m t := by
  cases h with
  | offer | hostReady | reset | resetOwed => exact .kept rfl rfl
  | arrive _ _ hf | arriveOwed _ _ _ hf => exact .fed hf rfl
  | arriveLate m tr tr' w data hf ha hd => exact .late w data tr hf ha hd rfl
  | resetLate w tr data ho hd => exact .byReset w data rfl ho hd rfl

theorem step_streamTo {s t : State} (h : step s = .next t) : StreamTo s.dropMove (nextMove s) t := by
  obtain ⟨-, ⟨hm, he⟩ | ⟨-, he⟩⟩ := step_effect h
  · exact hm ▸ he.streamTo
  · exact he.streamTo

/-! ### Where a byte is taken -/

/-- Only the byte that answers a byte request moves the phase (R45). -/
theorem AlignmentPhase.after_eq_or_byte (a : AlignmentPhase) (w : Width) (data : Bool) :
    a.after w data = a ∨ (w = .byte ∧ data = true) := by
  cases w with
  | word => exact .inl rfl
  | byte => cases data with
    | false => exact .inl rfl
    | true => exact .inr ⟨rfl, rfl⟩

/-- A discarded byte was there to be read. -/
theorem Transport.readByte_of_discard {t tr : Transport} (h : t.discard .byte = .done tr true) :
    ∃ b, t.readByte = .answered (.data b) tr := by
  obtain ⟨r, hr, hdata⟩ := Transport.discard_byte h
  obtain ⟨b, rfl⟩ := hdata.mp rfl
  exact ⟨b, hr⟩

/-- A step that moves the phase takes a byte (R45). -/
theorem byteTaken_of_alignment_ne {s t : State} (h : step s = .next t) (ha : t.alignment ≠ s.alignment) :
    ByteTaken s t := by
  cases step_streamTo h with
  | kept _ hkeep | fed _ hkeep => exact absurd hkeep ha
  | byBlock w data hm hp hd hal =>
    rcases s.alignment.after_eq_or_byte w data with he | ⟨rfl, rfl⟩
    · exact absurd (hal.trans he) ha
    · obtain ⟨hp, hn⟩ := hp rfl
      obtain ⟨b, hb⟩ := Transport.readByte_of_discard hd
      exact ⟨b, .inl ⟨hm, hp, hn, hb⟩⟩
  | byReset w data hm ho hd hal =>
    rcases s.alignment.after_eq_or_byte w data with he | ⟨rfl, rfl⟩
    · exact absurd (hal.trans he) ha
    · obtain ⟨b, hb⟩ := Transport.readByte_of_discard hd
      exact ⟨b, .inr (.inl ⟨hm, ho, hb⟩)⟩
  | late w data tr hf hn hd hal =>
    rcases s.alignment.after_eq_or_byte w data with he | ⟨rfl, rfl⟩
    · exact absurd (hal.trans he) ha
    · obtain ⟨b, hb⟩ := Transport.readByte_of_discard hd
      exact ⟨b, .inr (.inr ⟨tr, hf, hn, hb⟩)⟩

/-- A step that takes a byte flips the phase (R45, R201). -/
theorem alignment_of_byteTaken {s t : State} (h : step s = .next t) (hb : ByteTaken s t) :
    t.alignment = s.alignment.flip := by
  have hc : s.config.legal = true := (step_effect h).1
  obtain ⟨b, ⟨hm, hp, ha, hr⟩ | ⟨hm, ho, hr⟩ | ⟨tr, hf, ha, hr⟩⟩ := hb
  · have hstep : step s = .next ((s.dropMove.gotResponse t.transport).realign .byte true).shift := by
      rw [step_scanByte ⟨hc, hm⟩ hp, scanByteStep_of_answered (s := s.dropMove) ha hr]
      rfl
    exact congrArg State.alignment (Host.Outcome.next.inj (h.symm.trans hstep))
  · have hstep := ((step_reset hc hm).trans (doReset_of_some (s := s.dropMove) ho)).trans
      (State.dropResponse_of_done (Transport.discard_of_readByte_data hr))
    exact congrArg State.alignment (Host.Outcome.next.inj (h.symm.trans hstep))
  · have hstep := step_feed_done hc hf ha (Transport.discard_of_readByte_data hr)
    exact congrArg State.alignment (Host.Outcome.next.inj (h.symm.trans hstep))

/-! ### The offset in the sender's words -/

/-- The transport is the reference transport, its queue at the phase `a` in the sender's words (R45). -/
def Transport.Framed (t : Transport) (a : AlignmentPhase) (words : List U16) : Prop :=
  ∃ r, t = .reference r ∧ r.framed a words

/-- The sender sends words only, so no marker `FLT` stands in the queue (R62). -/
theorem RefTransport.framed.no_flt {t : RefTransport} {a : AlignmentPhase} {words : List U16} (h : t.framed a words) :
    .flt ∉ t.queue := by
  rw [h]
  intro hmem
  obtain ⟨b, -, hb⟩ := List.mem_map.mp hmem
  cases hb

/-- A word that is taken, or no value, keeps the phase in the same words (R45). -/
theorem Transport.Framed.readWord {t tr : Transport} {a : AlignmentPhase} {words : List U16} {r : Response U16}
    (hf : t.Framed a words) (h : t.readWord = .answered r tr) : ∃ n, tr.Framed a (words.drop n) := by
  obtain ⟨ref, rfl, hq⟩ := hf
  rcases RefTransport.readWord_answered h with ⟨b0, b1, q, hqueue, -, rfl⟩ | ⟨c, -, rfl | hflt⟩
  · exact ⟨1, _, rfl, List.drop_one ▸ hq.wordRead hqueue⟩
  · exact ⟨0, ref, rfl, hq⟩
  · exact absurd hflt hq.no_flt

/-- A byte that is taken flips the phase, and no value keeps it (R45, log 22). -/
theorem Transport.Framed.readByte {t tr : Transport} {a : AlignmentPhase} {words : List U16} {data : Bool}
    (hf : t.Framed a words) (h : t.discard .byte = .done tr data) :
    ∃ n, tr.Framed (a.after .byte data) (words.drop n) := by
  obtain ⟨r, hr, hdata⟩ := Transport.discard_byte h
  obtain ⟨ref, rfl, hq⟩ := hf
  rcases RefTransport.readByte_answered hr with ⟨b, q, hqueue, rfl, rfl⟩ | ⟨c, rfl, rfl | hflt⟩
  · obtain rfl : data = true := hdata.mpr ⟨b, rfl⟩
    exact ⟨a.offset, _, rfl, hq.byteRead hqueue⟩
  · obtain rfl : data = false := by simpa using hdata
    exact ⟨0, ref, rfl, hq⟩
  · exact absurd hflt hq.no_flt

/-- A response that is taken leaves the queue framed, at the phase after it (R45, R61). -/
theorem Transport.Framed.discard {t tr : Transport} {a : AlignmentPhase} {words : List U16} {w : Width} {data : Bool}
    (hf : t.Framed a words) (h : t.discard w = .done tr data) : ∃ n, tr.Framed (a.after w data) (words.drop n) := by
  cases w with
  | word =>
    obtain ⟨r, hr, -⟩ := Transport.discard_word h
    exact hf.readWord hr
  | byte => exact hf.readByte h

/-- What arrives is framed as before, where no item is appended to the queue (R62). -/
theorem Transport.Framed.feed {t tr : Transport} {a : AlignmentPhase} {words : List U16} {m : Move}
    (hf : t.Framed a words) (h : t.feed m = some tr) (hm : ∀ x, m ≠ .item x) : tr.Framed a words := by
  obtain ⟨ref, rfl, hq⟩ := hf
  rcases Transport.feed_some h with ⟨ts, x, ht, -⟩ | ⟨r, x, -, hx, -⟩ | ⟨r, ht, -, rfl⟩
  · cases ht
  · exact absurd hx (hm x)
  · injection ht with ht
    subst ht
    exact ⟨_, rfl, hq⟩

/-- Whatever a step does to the stream, it stays framed where nothing is appended to the queue (R45). -/
theorem StreamTo.framed {s t : State} {m : Move} {words : List U16} (h : StreamTo s m t) (hm : ∀ x, m ≠ .item x)
    (hf : s.transport.Framed s.alignment words) : ∃ n, t.transport.Framed t.alignment (words.drop n) := by
  cases h with
  | kept ht ha => exact ⟨0, by rw [ht, ha]; exact hf⟩
  | fed ht ha => exact ⟨0, by rw [ha]; exact hf.feed ht hm⟩
  | byBlock w data _ _ hd ha | byReset w data _ _ hd ha => rw [ha]; exact hf.discard hd
  | late w data tr hfeed _ hd ha => rw [ha]; exact (hf.feed hfeed hm).discard hd

/-- Settles O60: of all that a step does to the stream, only a taken byte moves the phase, and by exactly what it
takes off the sender's words. -/
theorem alignmentIsTheOffsetInTheSendersWords : Obligations.AlignmentIsTheOffsetInTheSendersWords := by
  unfold Obligations.AlignmentIsTheOffsetInTheSendersWords
  refine fun s t h => ⟨alignment_of_byteTaken h, fun hb => ?kept, fun hm words hf => ?framed⟩
  case kept => exact Classical.byContradiction fun ha => hb (byteTaken_of_alignment_ne h ha)
  case framed => exact (step_streamTo h).framed hm hf

end Sys2Proof.Machine

/-! PROOFS. Fixed words: the encoding tables (30_encoding.md R80, R85, R91) and the command lines of R99. -/

namespace Sys2Proof

/-- Settles O1: the fourteen words are closed terms. -/
theorem tableWordsDecodeToTheirRows : Obligations.TableWordsDecodeToTheirRows := by
  unfold Obligations.TableWordsDecodeToTheirRows
  decide

/-- Settles O59: the seven lines are closed terms. -/
theorem assembledCommandWords : Obligations.AssembledCommandWords := by
  unfold Obligations.AssembledCommandWords
  decide

end Sys2Proof
